-- ==== Sys2Proof/Word.lean ====
section
/-! DEFINITION. The word types of the machine (00_scope.md R5, R7): bit vectors for what the spec treats as bits. -/

namespace Sys2Proof

/-- A byte: memory cells, opcode and operand bytes, the status byte (R5). -/
abbrev Byte := BitVec 8

/-- A 16-bit field: displacements, short targets, branch offsets, float registers (R5, R97). -/
abbrev Half := BitVec 16

/-- A 32-bit word: pc, sp, the general registers and every address (R5, R6). -/
abbrev Word := BitVec 32

end Sys2Proof
end

