-- ==== Sys2Proof/Syntax.lean ====
section
/-! DEFINITION. The instruction set as syntax: one constructor per row of spec/opcode_table.json, in the table's order.
Operands are the fields of 30_encoding.md R93-R97 and nothing else: ignored bits (R112) are not part of an instruction. -/

namespace Sys2Proof

/-- The 2-bit type tag T of an instruction (00_scope.md R8). -/
inductive TypeTag where
  | byte
  | word
  | long
  /-- Float: every form that carries it is refused (30_encoding.md R111). -/
  | float
  deriving DecidableEq, Repr

/-- The widths an instruction can run at: the type tags but Float (00_scope.md R8). -/
inductive Width where
  | byte
  | word
  | long
  deriving DecidableEq, Repr

/-- The width of a type tag; Float has none in this spec (R8, D18). -/
def TypeTag.width? : TypeTag → Option Width
  | .byte => some .byte
  | .word => some .word
  | .long => some .long
  | .float => none

/-- The type tag of a width. -/
def Width.tag : Width → TypeTag
  | .byte => .byte
  | .word => .word
  | .long => .long

/-- n(T), the number of bytes of a width (R8). -/
def Width.bytes : Width → Nat
  | .byte => 1
  | .word => 2
  | .long => 4

/-- The number of immediate bytes a type tag calls for (R96).
A Float-tagged form has no immediate width in the spec (R225): none is read. DESIGN CHOICE, log 8, safe. -/
def TypeTag.bytes : TypeTag → Nat
  | .byte => 1
  | .word => 2
  | .long => 4
  | .float => 0

/-- A register view index, the 4-bit field of an operand byte (10_state.md R22). -/
abbrev ViewIdx := BitVec 4

/-- The instructions, one constructor per row of spec/opcode_table.json.
In the operands, `t` is the type tag, `d` and `r` are the fields d and s of the operand byte (R93), `o` the offset
register of an indexed form, `imm` an immediate (R96), `disp`, `off`, `addr` the fields of R97. -/
inductive Instr where
  /-- NOP (40_control.md R130). -/
  | nop
  /-- HLT (R131). -/
  | hlt
  /-- WFI (R132). -/
  | wfi
  /-- RET (R133). -/
  | ret
  /-- RFI (R134). -/
  | rfi
  /-- IRQ (R135). -/
  | irq
  /-- NMI (R136). -/
  | nmi
  /-- ANDS d (R137). -/
  | andsReg (d : ViewIdx)
  /-- ORS d (R138). -/
  | orsReg (d : ViewIdx)
  /-- XORS d (R139). -/
  | xorsReg (d : ViewIdx)
  /-- ANDS $imm (R140). -/
  | andsImm (imm : Byte)
  /-- ORS $imm (R141). -/
  | orsImm (imm : Byte)
  /-- XORS $imm (R142). -/
  | xorsImm (imm : Byte)
  /-- LODw d, addr (41_data_move.md R152). -/
  | lodDirect (t : TypeTag) (d : ViewIdx) (disp : Half)
  /-- LODw d, addr(s) (R153). -/
  | lodIndexed (t : TypeTag) (d o : ViewIdx) (disp : Half)
  /-- STOw addr, d (R154). -/
  | stoDirect (t : TypeTag) (d : ViewIdx) (disp : Half)
  /-- STOw addr(s), d (R155). -/
  | stoIndexed (t : TypeTag) (d o : ViewIdx) (disp : Half)
  /-- MOVw d, s (R156). -/
  | movReg (t : TypeTag) (d r : ViewIdx)
  /-- MOVw d, $imm (R157). -/
  | movImm (t : TypeTag) (d : ViewIdx) (imm : Word)
  /-- SWPw a, b (R158). -/
  | swp (t : TypeTag) (a b : ViewIdx)
  /-- PSHw d (R159). -/
  | psh (t : TypeTag) (d : ViewIdx)
  /-- POPw d (R160). -/
  | pop (t : TypeTag) (d : ViewIdx)
  /-- JMP addr (42_control_transfer.md R181). -/
  | jmp (addr : Half)
  /-- JMPL addr (R182). -/
  | jmpl (addr : Word)
  /-- JSR addr (R183). -/
  | jsr (addr : Half)
  /-- JSRL addr (R184). -/
  | jsrl (addr : Word)
  /-- JMPA addr (R185). -/
  | jmpa (addr : Half)
  /-- JMPAL addr (R186). -/
  | jmpal (addr : Word)
  /-- JSRA addr (R187). -/
  | jsra (addr : Half)
  /-- JSRAL addr (R188). -/
  | jsral (addr : Word)
  /-- BCC addr (R191). -/
  | bcc (off : Half)
  /-- BHC addr (R192). -/
  | bhc (off : Half)
  /-- BFC addr (R193). -/
  | bfc (off : Half)
  /-- BTC addr (R194). -/
  | btc (off : Half)
  /-- BIC addr (R195). -/
  | bic (off : Half)
  /-- BVC addr (R196). -/
  | bvc (off : Half)
  /-- BZC addr (R197). -/
  | bzc (off : Half)
  /-- BSC addr (R198). -/
  | bsc (off : Half)
  /-- BCS addr (R199). -/
  | bcs (off : Half)
  /-- BHS addr (R200). -/
  | bhs (off : Half)
  /-- BFS addr (R201). -/
  | bfs (off : Half)
  /-- BTS addr (R202). -/
  | bts (off : Half)
  /-- BIS addr (R203). -/
  | bis (off : Half)
  /-- BVS addr (R204). -/
  | bvs (off : Half)
  /-- BZS addr (R205). -/
  | bzs (off : Half)
  /-- BSS addr (R206). -/
  | bss (off : Half)
  /-- ADDw d, s (43_alu_binary.md R226). -/
  | addReg (t : TypeTag) (d r : ViewIdx)
  /-- ADDw d, $imm (R226). -/
  | addImm (t : TypeTag) (d : ViewIdx) (imm : Word)
  /-- ADCw d, s (R227). -/
  | adcReg (t : TypeTag) (d r : ViewIdx)
  /-- ADCw d, $imm (R227). -/
  | adcImm (t : TypeTag) (d : ViewIdx) (imm : Word)
  /-- SUBw d, s (R228). -/
  | subReg (t : TypeTag) (d r : ViewIdx)
  /-- SUBw d, $imm (R228). -/
  | subImm (t : TypeTag) (d : ViewIdx) (imm : Word)
  /-- SBCw d, s (R229). -/
  | sbcReg (t : TypeTag) (d r : ViewIdx)
  /-- SBCw d, $imm (R229). -/
  | sbcImm (t : TypeTag) (d : ViewIdx) (imm : Word)
  /-- CMPw d, s (R230). -/
  | cmpReg (t : TypeTag) (d r : ViewIdx)
  /-- CMPw d, $imm (R230). -/
  | cmpImm (t : TypeTag) (d : ViewIdx) (imm : Word)
  /-- ANDw d, s (R231). -/
  | andReg (t : TypeTag) (d r : ViewIdx)
  /-- ANDw d, $imm (R231). -/
  | andImm (t : TypeTag) (d : ViewIdx) (imm : Word)
  /-- ORw d, s (R232). -/
  | orReg (t : TypeTag) (d r : ViewIdx)
  /-- ORw d, $imm (R232). -/
  | orImm (t : TypeTag) (d : ViewIdx) (imm : Word)
  /-- XORw d, s (R233). -/
  | xorReg (t : TypeTag) (d r : ViewIdx)
  /-- XORw d, $imm (R233). -/
  | xorImm (t : TypeTag) (d : ViewIdx) (imm : Word)
  /-- MULw d, s (R234). -/
  | mulReg (t : TypeTag) (d r : ViewIdx)
  /-- MULw d, $imm (R234). -/
  | mulImm (t : TypeTag) (d : ViewIdx) (imm : Word)
  /-- DIVw d, s (R235). -/
  | divReg (t : TypeTag) (d r : ViewIdx)
  /-- DIVw d, $imm (R235). -/
  | divImm (t : TypeTag) (d : ViewIdx) (imm : Word)
  /-- MODw d, s (R236). -/
  | modReg (t : TypeTag) (d r : ViewIdx)
  /-- MODw d, $imm (R236). -/
  | modImm (t : TypeTag) (d : ViewIdx) (imm : Word)
  /-- POWw d, s (R237). -/
  | powReg (t : TypeTag) (d r : ViewIdx)
  /-- POWw d, $imm (R237). -/
  | powImm (t : TypeTag) (d : ViewIdx) (imm : Word)
  /-- MINw d, s (R238). -/
  | minReg (t : TypeTag) (d r : ViewIdx)
  /-- MINw d, $imm (R238). -/
  | minImm (t : TypeTag) (d : ViewIdx) (imm : Word)
  /-- MAXw d, s (R239). -/
  | maxReg (t : TypeTag) (d r : ViewIdx)
  /-- MAXw d, $imm (R239). -/
  | maxImm (t : TypeTag) (d : ViewIdx) (imm : Word)
  /-- INCw d (44_alu_unary.md R272). -/
  | inc (t : TypeTag) (d : ViewIdx)
  /-- DECw d (R273). -/
  | dec (t : TypeTag) (d : ViewIdx)
  /-- TSTw d (R274). -/
  | tst (t : TypeTag) (d : ViewIdx)
  /-- COMw d (R275). -/
  | com (t : TypeTag) (d : ViewIdx)
  /-- NEGw d (R276). -/
  | neg (t : TypeTag) (d : ViewIdx)
  /-- ABSw d (R277). -/
  | abs (t : TypeTag) (d : ViewIdx)
  /-- SXTw d (R278). -/
  | sxt (t : TypeTag) (d : ViewIdx)
  /-- ZXTw d (R279). -/
  | zxt (t : TypeTag) (d : ViewIdx)
  /-- SHLw d (R280). -/
  | shl (t : TypeTag) (d : ViewIdx)
  /-- SHRw d (R281). -/
  | shr (t : TypeTag) (d : ViewIdx)
  /-- ROLw d (R282). -/
  | rol (t : TypeTag) (d : ViewIdx)
  /-- RORw d (R283). -/
  | ror (t : TypeTag) (d : ViewIdx)
  /-- Unassigned opcode byte 0x07 (R110, R143). -/
  | unassigned07
  /-- Unassigned opcode byte 0x0B (R110, R143). -/
  | unassigned0B
  /-- Unassigned opcode byte 0x0F (R110, R143). -/
  | unassigned0F
  /-- Unassigned opcode byte 0x18-0x1F (R110, R162); `low` is the opcode bits the table row leaves free. -/
  | unassigned18 (low : BitVec 3)
  /-- Unassigned opcode byte 0x28-0x2F (R110, R162); `low` is the opcode bits the table row leaves free. -/
  | unassigned28 (low : BitVec 3)
  /-- Unassigned opcode byte 0x38-0x3F (R110, R162); `low` is the opcode bits the table row leaves free. -/
  | unassigned38 (low : BitVec 3)
  /-- Unassigned opcode byte 0x44-0x47 (R110, R162); `low` is the opcode bits the table row leaves free. -/
  | unassigned44 (low : BitVec 2)
  /-- Unassigned opcode byte 0x48-0x4F (R110, R162); `low` is the opcode bits the table row leaves free. -/
  | unassigned48 (low : BitVec 3)
  /-- Unassigned opcode byte 0x58-0x5F (R110, R162); `low` is the opcode bits the table row leaves free. -/
  | unassigned58 (low : BitVec 3)
  /-- Unassigned opcode byte 0xFC-0xFF (R110, R284); `low` is the opcode bits the table row leaves free. -/
  | unassignedFC (low : BitVec 2)
  deriving DecidableEq, Repr

end Sys2Proof
end

