-- ==== Sys2Proof/WellFormed.lean ====
section
/-! DEFINITION. Which terms of `Instr` are instructions. The one relation between operands that the syntax does not
already enforce is 30_encoding.md R96: an immediate has exactly as many bytes as the type tag calls for. -/

namespace Sys2Proof

/-- The immediate fits the n(T) bytes of its type tag (R96); under Float, which reads none, it is zero (log 8). -/
def immFits (t : TypeTag) (imm : Word) : Bool :=
  decide (imm.toNat < 2 ^ (8 * t.bytes))

/-- An instruction some byte stream encodes. -/
def Instr.wf : Instr → Bool
  | .nop => true
  | .hlt => true
  | .wfi => true
  | .ret => true
  | .rfi => true
  | .irq => true
  | .nmi => true
  | .andsReg _ => true
  | .orsReg _ => true
  | .xorsReg _ => true
  | .andsImm _ => true
  | .orsImm _ => true
  | .xorsImm _ => true
  | .lodDirect _ _ _ => true
  | .lodIndexed _ _ _ _ => true
  | .stoDirect _ _ _ => true
  | .stoIndexed _ _ _ _ => true
  | .movReg _ _ _ => true
  | .movImm t _ imm => immFits t imm
  | .swp _ _ _ => true
  | .psh _ _ => true
  | .pop _ _ => true
  | .jmp _ => true
  | .jmpl _ => true
  | .jsr _ => true
  | .jsrl _ => true
  | .jmpa _ => true
  | .jmpal _ => true
  | .jsra _ => true
  | .jsral _ => true
  | .bcc _ => true
  | .bhc _ => true
  | .bfc _ => true
  | .btc _ => true
  | .bic _ => true
  | .bvc _ => true
  | .bzc _ => true
  | .bsc _ => true
  | .bcs _ => true
  | .bhs _ => true
  | .bfs _ => true
  | .bts _ => true
  | .bis _ => true
  | .bvs _ => true
  | .bzs _ => true
  | .bss _ => true
  | .addReg _ _ _ => true
  | .addImm t _ imm => immFits t imm
  | .adcReg _ _ _ => true
  | .adcImm t _ imm => immFits t imm
  | .subReg _ _ _ => true
  | .subImm t _ imm => immFits t imm
  | .sbcReg _ _ _ => true
  | .sbcImm t _ imm => immFits t imm
  | .cmpReg _ _ _ => true
  | .cmpImm t _ imm => immFits t imm
  | .andReg _ _ _ => true
  | .andImm t _ imm => immFits t imm
  | .orReg _ _ _ => true
  | .orImm t _ imm => immFits t imm
  | .xorReg _ _ _ => true
  | .xorImm t _ imm => immFits t imm
  | .mulReg _ _ _ => true
  | .mulImm t _ imm => immFits t imm
  | .divReg _ _ _ => true
  | .divImm t _ imm => immFits t imm
  | .modReg _ _ _ => true
  | .modImm t _ imm => immFits t imm
  | .powReg _ _ _ => true
  | .powImm t _ imm => immFits t imm
  | .minReg _ _ _ => true
  | .minImm t _ imm => immFits t imm
  | .maxReg _ _ _ => true
  | .maxImm t _ imm => immFits t imm
  | .inc _ _ => true
  | .dec _ _ => true
  | .tst _ _ => true
  | .com _ _ => true
  | .neg _ _ => true
  | .abs _ _ => true
  | .sxt _ _ => true
  | .zxt _ _ => true
  | .shl _ _ => true
  | .shr _ _ => true
  | .rol _ _ => true
  | .ror _ _ => true
  | .unassigned07 => true
  | .unassigned0B => true
  | .unassigned0F => true
  | .unassigned18 _ => true
  | .unassigned28 _ => true
  | .unassigned38 _ => true
  | .unassigned44 _ => true
  | .unassigned48 _ => true
  | .unassigned58 _ => true
  | .unassignedFC _ => true

end Sys2Proof
end

