-- ==== Sys2Proof/Decode.lean ====
section
/-! DEFINITION. The decoder, total on any six bytes (30_encoding.md R91, R115), and after it the encoder, both written
from the encoding tables of 30_encoding.md R93-R104. Reserved encodings decode to constructors of their own name. -/

namespace Sys2Proof

/-- The six bytes from the opcode on: the longest instruction (R90). An instruction uses a first part of them. -/
structure Window where
  b0 : Byte
  b1 : Byte
  b2 : Byte
  b3 : Byte
  b4 : Byte
  b5 : Byte
  deriving DecidableEq, Repr

/-! ### Fields -/

/-- The field of an operand byte in bits 3:0: d, a, and the register of a unary form (R93, R94). -/
def lowNibble (b : Byte) : BitVec 4 := b.extractLsb' 0 4

/-- The field of an operand byte in bits 7:4: s and b (R93). -/
def highNibble (b : Byte) : BitVec 4 := b.extractLsb' 4 4

/-- An operand byte from its two fields (R93). -/
def operandByte (high low : BitVec 4) : Byte := high ++ low

/-- The type tag of a 2-bit field (00_scope.md R8). -/
def TypeTag.ofBits (b : BitVec 2) : TypeTag :=
  match b with
  | 0#2 => .byte
  | 1#2 => .word
  | 2#2 => .long
  | _ => .float

/-- The 2-bit field of a type tag (R8). -/
def TypeTag.bits : TypeTag → BitVec 2
  | .byte => 0
  | .word => 1
  | .long => 2
  | .float => 3

/-- The operand byte of a unary form: type tag in bits 5:4, register in bits 3:0 (R94). -/
def unaryByte (t : TypeTag) (d : BitVec 4) : Byte := 0#2 ++ t.bits ++ d

/-- A 16-bit field from its bytes, lowest address first (R92, 20_memory.md R64). -/
def halfOf (b0 b1 : Byte) : Half := b1 ++ b0

/-- A 32-bit field from its bytes, lowest address first (R92). -/
def wordOf (b0 b1 b2 b3 : Byte) : Word := b3 ++ b2 ++ b1 ++ b0

/-- The type tag in opcode bits 1:0 (R99, R102). -/
def Window.tag (w : Window) : TypeTag := TypeTag.ofBits (w.b0.extractLsb' 0 2)

/-- The type tag of a unary form, in operand byte bits 5:4 (R94). -/
def Window.unaryTag (w : Window) : TypeTag := TypeTag.ofBits (w.b1.extractLsb' 4 2)

/-- The first operand field, d (R93). -/
def Window.d (w : Window) : ViewIdx := lowNibble w.b1

/-- The second operand field, s (R93). -/
def Window.s (w : Window) : ViewIdx := highNibble w.b1

/-- fetch16(1): short targets and branch offsets (R97). -/
def Window.half1 (w : Window) : Half := halfOf w.b1 w.b2

/-- fetch16(2): the displacement of LOD and STO (R97). -/
def Window.half2 (w : Window) : Half := halfOf w.b2 w.b3

/-- fetch32(1): long targets (R97). -/
def Window.word1 (w : Window) : Word := wordOf w.b1 w.b2 w.b3 w.b4

/-- The immediate of a register-immediate form: n(T) bytes from offset 2, unsigned (R96). -/
def Window.imm (w : Window) : Word :=
  match w.tag with
  | .byte => w.b2.setWidth 32
  | .word => (halfOf w.b2 w.b3).setWidth 32
  | .long => wordOf w.b2 w.b3 w.b4 w.b5
  | .float => 0

/-! ### Decoding -/

/-- Control group 0x00-0x0F (R98). -/
def decodeControl (w : Window) : Instr :=
  match lowNibble w.b0 with
  | 0x0#4 => .nop
  | 0x1#4 => .hlt
  | 0x2#4 => .wfi
  | 0x3#4 => .ret
  | 0x4#4 => .rfi
  | 0x5#4 => .irq
  | 0x6#4 => .nmi
  | 0x7#4 => .unassigned07
  | 0x8#4 => .andsReg w.d
  | 0x9#4 => .orsReg w.d
  | 0xA#4 => .xorsReg w.d
  | 0xB#4 => .unassigned0B
  | 0xC#4 => .andsImm w.b1
  | 0xD#4 => .orsImm w.b1
  | 0xE#4 => .xorsImm w.b1
  | _ => .unassigned0F

/-- Data-move group 0x10-0x5F, by opcode bits 7:2 (R99). -/
def decodeDataMove (w : Window) : Instr :=
  match w.b0.extractLsb' 2 6 with
  | 0x04#6 => .lodDirect w.tag w.d w.half2
  | 0x05#6 => .lodIndexed w.tag w.d w.s w.half2
  | 0x06#6 => .unassigned18 (w.b0.extractLsb' 0 3)
  | 0x07#6 => .unassigned18 (w.b0.extractLsb' 0 3)
  | 0x08#6 => .stoDirect w.tag w.d w.half2
  | 0x09#6 => .stoIndexed w.tag w.d w.s w.half2
  | 0x0A#6 => .unassigned28 (w.b0.extractLsb' 0 3)
  | 0x0B#6 => .unassigned28 (w.b0.extractLsb' 0 3)
  | 0x0C#6 => .movReg w.tag w.d w.s
  | 0x0D#6 => .movImm w.tag w.d w.imm
  | 0x0E#6 => .unassigned38 (w.b0.extractLsb' 0 3)
  | 0x0F#6 => .unassigned38 (w.b0.extractLsb' 0 3)
  | 0x10#6 => .swp w.tag w.d w.s
  | 0x11#6 => .unassigned44 (w.b0.extractLsb' 0 2)
  | 0x12#6 => .unassigned48 (w.b0.extractLsb' 0 3)
  | 0x13#6 => .unassigned48 (w.b0.extractLsb' 0 3)
  | 0x14#6 => .psh w.tag w.d
  | 0x15#6 => .pop w.tag w.d
  | _ => .unassigned58 (w.b0.extractLsb' 0 3)

/-- Jump group 0x60-0x6F, by opcode bits 2:0; bit 3 is ignored (R100, R189). -/
def decodeJump (w : Window) : Instr :=
  match w.b0.extractLsb' 0 3 with
  | 0#3 => .jmp w.half1
  | 1#3 => .jmpl w.word1
  | 2#3 => .jsr w.half1
  | 3#3 => .jsrl w.word1
  | 4#3 => .jmpa w.half1
  | 5#3 => .jmpal w.word1
  | 6#3 => .jsra w.half1
  | _ => .jsral w.word1

/-- Branch group 0x70-0x7F (R101). -/
def decodeBranch (w : Window) : Instr :=
  match lowNibble w.b0 with
  | 0x0#4 => .bcc w.half1
  | 0x1#4 => .bhc w.half1
  | 0x2#4 => .bfc w.half1
  | 0x3#4 => .btc w.half1
  | 0x4#4 => .bic w.half1
  | 0x5#4 => .bvc w.half1
  | 0x6#4 => .bzc w.half1
  | 0x7#4 => .bsc w.half1
  | 0x8#4 => .bcs w.half1
  | 0x9#4 => .bhs w.half1
  | 0xA#4 => .bfs w.half1
  | 0xB#4 => .bts w.half1
  | 0xC#4 => .bis w.half1
  | 0xD#4 => .bvs w.half1
  | 0xE#4 => .bzs w.half1
  | _ => .bss w.half1

/-- Binary arithmetic 0x80-0xEF, by opcode bits 7:2: operation and immediate bit (R102). -/
def decodeBinary (w : Window) : Instr :=
  match w.b0.extractLsb' 2 6 with
  | 0x20#6 => .addReg w.tag w.d w.s
  | 0x21#6 => .addImm w.tag w.d w.imm
  | 0x22#6 => .adcReg w.tag w.d w.s
  | 0x23#6 => .adcImm w.tag w.d w.imm
  | 0x24#6 => .subReg w.tag w.d w.s
  | 0x25#6 => .subImm w.tag w.d w.imm
  | 0x26#6 => .sbcReg w.tag w.d w.s
  | 0x27#6 => .sbcImm w.tag w.d w.imm
  | 0x28#6 => .cmpReg w.tag w.d w.s
  | 0x29#6 => .cmpImm w.tag w.d w.imm
  | 0x2A#6 => .andReg w.tag w.d w.s
  | 0x2B#6 => .andImm w.tag w.d w.imm
  | 0x2C#6 => .orReg w.tag w.d w.s
  | 0x2D#6 => .orImm w.tag w.d w.imm
  | 0x2E#6 => .xorReg w.tag w.d w.s
  | 0x2F#6 => .xorImm w.tag w.d w.imm
  | 0x30#6 => .mulReg w.tag w.d w.s
  | 0x31#6 => .mulImm w.tag w.d w.imm
  | 0x32#6 => .divReg w.tag w.d w.s
  | 0x33#6 => .divImm w.tag w.d w.imm
  | 0x34#6 => .modReg w.tag w.d w.s
  | 0x35#6 => .modImm w.tag w.d w.imm
  | 0x36#6 => .powReg w.tag w.d w.s
  | 0x37#6 => .powImm w.tag w.d w.imm
  | 0x38#6 => .minReg w.tag w.d w.s
  | 0x39#6 => .minImm w.tag w.d w.imm
  | 0x3A#6 => .maxReg w.tag w.d w.s
  | _ => .maxImm w.tag w.d w.imm

/-- Unary arithmetic 0xF0-0xFB and the reserved float group 0xFC-0xFF (R103, R104). -/
def decodeUnary (w : Window) : Instr :=
  match lowNibble w.b0 with
  | 0x0#4 => .inc w.unaryTag w.d
  | 0x1#4 => .dec w.unaryTag w.d
  | 0x2#4 => .tst w.unaryTag w.d
  | 0x3#4 => .com w.unaryTag w.d
  | 0x4#4 => .neg w.unaryTag w.d
  | 0x5#4 => .abs w.unaryTag w.d
  | 0x6#4 => .sxt w.unaryTag w.d
  | 0x7#4 => .zxt w.unaryTag w.d
  | 0x8#4 => .shl w.unaryTag w.d
  | 0x9#4 => .shr w.unaryTag w.d
  | 0xA#4 => .rol w.unaryTag w.d
  | 0xB#4 => .ror w.unaryTag w.d
  | _ => .unassignedFC (w.b0.extractLsb' 0 2)

/-- `decode()` of R91: one opcode byte, dispatched by numeric range. -/
def decode (w : Window) : Instr :=
  match highNibble w.b0 with
  | 0x0#4 => decodeControl w
  | 0x1#4 => decodeDataMove w
  | 0x2#4 => decodeDataMove w
  | 0x3#4 => decodeDataMove w
  | 0x4#4 => decodeDataMove w
  | 0x5#4 => decodeDataMove w
  | 0x6#4 => decodeJump w
  | 0x7#4 => decodeBranch w
  | 0xF#4 => decodeUnary w
  | _ => decodeBinary w

/-! ### Lengths -/

/-- The length of an instruction in bytes (R90, R114). Refused and unassigned opcodes have no length in the spec and never
advance pc; the bytes named here for them are those the table's row spans (log 8). -/
def Instr.length : Instr → Nat
  | .nop => 1
  | .hlt => 1
  | .wfi => 1
  | .ret => 1
  | .rfi => 1
  | .irq => 1
  | .nmi => 1
  | .andsReg _ => 2
  | .orsReg _ => 2
  | .xorsReg _ => 2
  | .andsImm _ => 2
  | .orsImm _ => 2
  | .xorsImm _ => 2
  | .lodDirect _ _ _ => 4
  | .lodIndexed _ _ _ _ => 4
  | .stoDirect _ _ _ => 4
  | .stoIndexed _ _ _ _ => 4
  | .movReg _ _ _ => 2
  | .movImm t _ _ => 2 + t.bytes
  | .swp _ _ _ => 2
  | .psh _ _ => 2
  | .pop _ _ => 2
  | .jmp _ => 3
  | .jmpl _ => 5
  | .jsr _ => 3
  | .jsrl _ => 5
  | .jmpa _ => 3
  | .jmpal _ => 5
  | .jsra _ => 3
  | .jsral _ => 5
  | .bcc _ => 3
  | .bhc _ => 3
  | .bfc _ => 3
  | .btc _ => 3
  | .bic _ => 3
  | .bvc _ => 3
  | .bzc _ => 3
  | .bsc _ => 3
  | .bcs _ => 3
  | .bhs _ => 3
  | .bfs _ => 3
  | .bts _ => 3
  | .bis _ => 3
  | .bvs _ => 3
  | .bzs _ => 3
  | .bss _ => 3
  | .addReg _ _ _ => 2
  | .addImm t _ _ => 2 + t.bytes
  | .adcReg _ _ _ => 2
  | .adcImm t _ _ => 2 + t.bytes
  | .subReg _ _ _ => 2
  | .subImm t _ _ => 2 + t.bytes
  | .sbcReg _ _ _ => 2
  | .sbcImm t _ _ => 2 + t.bytes
  | .cmpReg _ _ _ => 2
  | .cmpImm t _ _ => 2 + t.bytes
  | .andReg _ _ _ => 2
  | .andImm t _ _ => 2 + t.bytes
  | .orReg _ _ _ => 2
  | .orImm t _ _ => 2 + t.bytes
  | .xorReg _ _ _ => 2
  | .xorImm t _ _ => 2 + t.bytes
  | .mulReg _ _ _ => 2
  | .mulImm t _ _ => 2 + t.bytes
  | .divReg _ _ _ => 2
  | .divImm t _ _ => 2 + t.bytes
  | .modReg _ _ _ => 2
  | .modImm t _ _ => 2 + t.bytes
  | .powReg _ _ _ => 2
  | .powImm t _ _ => 2 + t.bytes
  | .minReg _ _ _ => 2
  | .minImm t _ _ => 2 + t.bytes
  | .maxReg _ _ _ => 2
  | .maxImm t _ _ => 2 + t.bytes
  | .inc _ _ => 2
  | .dec _ _ => 2
  | .tst _ _ => 2
  | .com _ _ => 2
  | .neg _ _ => 2
  | .abs _ _ => 2
  | .sxt _ _ => 2
  | .zxt _ _ => 2
  | .shl _ _ => 2
  | .shr _ _ => 2
  | .rol _ _ => 2
  | .ror _ _ => 2
  | .unassigned07 => 1
  | .unassigned0B => 1
  | .unassigned0F => 1
  | .unassigned18 _ => 1
  | .unassigned28 _ => 1
  | .unassigned38 _ => 1
  | .unassigned44 _ => 1
  | .unassigned48 _ => 1
  | .unassigned58 _ => 1
  | .unassignedFC _ => 1

/-! ### Encoding -/

/-- An opcode byte from the bits 7:2 the table fixes and the type tag in bits 1:0 (R99, R102). -/
def taggedOpcode (high : BitVec 6) (t : TypeTag) : Byte := high ++ t.bits

/-- The two bytes of a 16-bit field, lowest address first (R92). -/
def halfBytes (v : Half) : List Byte := [v.extractLsb' 0 8, v.extractLsb' 8 8]

/-- The four bytes of a 32-bit field, lowest address first (R92). -/
def wordBytes (v : Word) : List Byte :=
  [v.extractLsb' 0 8, v.extractLsb' 8 8, v.extractLsb' 16 8, v.extractLsb' 24 8]

/-- The n(T) bytes of an immediate, lowest address first (R96). -/
def immBytes (t : TypeTag) (v : Word) : List Byte :=
  match t with
  | .byte => [v.extractLsb' 0 8]
  | .word => [v.extractLsb' 0 8, v.extractLsb' 8 8]
  | .long => wordBytes v
  | .float => []

/-- The bytes of an instruction, lowest address first (R95). Ignored bits are written as zero (log 14). -/
def encode : Instr → List Byte
  | .nop => [0x00]
  | .hlt => [0x01]
  | .wfi => [0x02]
  | .ret => [0x03]
  | .rfi => [0x04]
  | .irq => [0x05]
  | .nmi => [0x06]
  | .andsReg d => [0x08, operandByte 0 d]
  | .orsReg d => [0x09, operandByte 0 d]
  | .xorsReg d => [0x0A, operandByte 0 d]
  | .andsImm imm => [0x0C, imm]
  | .orsImm imm => [0x0D, imm]
  | .xorsImm imm => [0x0E, imm]
  | .lodDirect t d disp => taggedOpcode 0x04 t :: operandByte 0 d :: halfBytes disp
  | .lodIndexed t d o disp => taggedOpcode 0x05 t :: operandByte o d :: halfBytes disp
  | .stoDirect t d disp => taggedOpcode 0x08 t :: operandByte 0 d :: halfBytes disp
  | .stoIndexed t d o disp => taggedOpcode 0x09 t :: operandByte o d :: halfBytes disp
  | .movReg t d r => [taggedOpcode 0x0C t, operandByte r d]
  | .movImm t d imm => taggedOpcode 0x0D t :: operandByte 0 d :: immBytes t imm
  | .swp t a b => [taggedOpcode 0x10 t, operandByte b a]
  | .psh t d => [taggedOpcode 0x14 t, operandByte 0 d]
  | .pop t d => [taggedOpcode 0x15 t, operandByte 0 d]
  | .jmp addr => 0x60 :: halfBytes addr
  | .jmpl addr => 0x61 :: wordBytes addr
  | .jsr addr => 0x62 :: halfBytes addr
  | .jsrl addr => 0x63 :: wordBytes addr
  | .jmpa addr => 0x64 :: halfBytes addr
  | .jmpal addr => 0x65 :: wordBytes addr
  | .jsra addr => 0x66 :: halfBytes addr
  | .jsral addr => 0x67 :: wordBytes addr
  | .bcc off => 0x70 :: halfBytes off
  | .bhc off => 0x71 :: halfBytes off
  | .bfc off => 0x72 :: halfBytes off
  | .btc off => 0x73 :: halfBytes off
  | .bic off => 0x74 :: halfBytes off
  | .bvc off => 0x75 :: halfBytes off
  | .bzc off => 0x76 :: halfBytes off
  | .bsc off => 0x77 :: halfBytes off
  | .bcs off => 0x78 :: halfBytes off
  | .bhs off => 0x79 :: halfBytes off
  | .bfs off => 0x7A :: halfBytes off
  | .bts off => 0x7B :: halfBytes off
  | .bis off => 0x7C :: halfBytes off
  | .bvs off => 0x7D :: halfBytes off
  | .bzs off => 0x7E :: halfBytes off
  | .bss off => 0x7F :: halfBytes off
  | .addReg t d r => [taggedOpcode 0x20 t, operandByte r d]
  | .addImm t d imm => taggedOpcode 0x21 t :: operandByte 0 d :: immBytes t imm
  | .adcReg t d r => [taggedOpcode 0x22 t, operandByte r d]
  | .adcImm t d imm => taggedOpcode 0x23 t :: operandByte 0 d :: immBytes t imm
  | .subReg t d r => [taggedOpcode 0x24 t, operandByte r d]
  | .subImm t d imm => taggedOpcode 0x25 t :: operandByte 0 d :: immBytes t imm
  | .sbcReg t d r => [taggedOpcode 0x26 t, operandByte r d]
  | .sbcImm t d imm => taggedOpcode 0x27 t :: operandByte 0 d :: immBytes t imm
  | .cmpReg t d r => [taggedOpcode 0x28 t, operandByte r d]
  | .cmpImm t d imm => taggedOpcode 0x29 t :: operandByte 0 d :: immBytes t imm
  | .andReg t d r => [taggedOpcode 0x2A t, operandByte r d]
  | .andImm t d imm => taggedOpcode 0x2B t :: operandByte 0 d :: immBytes t imm
  | .orReg t d r => [taggedOpcode 0x2C t, operandByte r d]
  | .orImm t d imm => taggedOpcode 0x2D t :: operandByte 0 d :: immBytes t imm
  | .xorReg t d r => [taggedOpcode 0x2E t, operandByte r d]
  | .xorImm t d imm => taggedOpcode 0x2F t :: operandByte 0 d :: immBytes t imm
  | .mulReg t d r => [taggedOpcode 0x30 t, operandByte r d]
  | .mulImm t d imm => taggedOpcode 0x31 t :: operandByte 0 d :: immBytes t imm
  | .divReg t d r => [taggedOpcode 0x32 t, operandByte r d]
  | .divImm t d imm => taggedOpcode 0x33 t :: operandByte 0 d :: immBytes t imm
  | .modReg t d r => [taggedOpcode 0x34 t, operandByte r d]
  | .modImm t d imm => taggedOpcode 0x35 t :: operandByte 0 d :: immBytes t imm
  | .powReg t d r => [taggedOpcode 0x36 t, operandByte r d]
  | .powImm t d imm => taggedOpcode 0x37 t :: operandByte 0 d :: immBytes t imm
  | .minReg t d r => [taggedOpcode 0x38 t, operandByte r d]
  | .minImm t d imm => taggedOpcode 0x39 t :: operandByte 0 d :: immBytes t imm
  | .maxReg t d r => [taggedOpcode 0x3A t, operandByte r d]
  | .maxImm t d imm => taggedOpcode 0x3B t :: operandByte 0 d :: immBytes t imm
  | .inc t d => [0xF0, unaryByte t d]
  | .dec t d => [0xF1, unaryByte t d]
  | .tst t d => [0xF2, unaryByte t d]
  | .com t d => [0xF3, unaryByte t d]
  | .neg t d => [0xF4, unaryByte t d]
  | .abs t d => [0xF5, unaryByte t d]
  | .sxt t d => [0xF6, unaryByte t d]
  | .zxt t d => [0xF7, unaryByte t d]
  | .shl t d => [0xF8, unaryByte t d]
  | .shr t d => [0xF9, unaryByte t d]
  | .rol t d => [0xFA, unaryByte t d]
  | .ror t d => [0xFB, unaryByte t d]
  | .unassigned07 => [0x07]
  | .unassigned0B => [0x0B]
  | .unassigned0F => [0x0F]
  | .unassigned18 low => [(0x3#5 ++ low : BitVec 8)]
  | .unassigned28 low => [(0x5#5 ++ low : BitVec 8)]
  | .unassigned38 low => [(0x7#5 ++ low : BitVec 8)]
  | .unassigned44 low => [(0x11#6 ++ low : BitVec 8)]
  | .unassigned48 low => [(0x9#5 ++ low : BitVec 8)]
  | .unassigned58 low => [(0xB#5 ++ low : BitVec 8)]
  | .unassignedFC low => [(0x3F#6 ++ low : BitVec 8)]

/-! ### Streams and the host's table words -/

/-- The first six bytes of a list, zeros where it is shorter. -/
def Window.ofBytes (bs : List Byte) : Window where
  b0 := bs.getD 0 0
  b1 := bs.getD 1 0
  b2 := bs.getD 2 0
  b3 := bs.getD 3 0
  b4 := bs.getD 4 0
  b5 := bs.getD 5 0

/-- Why a list of bytes is no instruction followed by a rest. -/
inductive DecodeError where
  /-- The list ends inside the instruction its opcode byte begins (or is empty). -/
  | truncated
  deriving DecidableEq, Repr

/-- One instruction off the front of a byte stream, and the rest of it (R90). -/
def decodeStream (bs : List Byte) : Except DecodeError (Instr × List Byte) :=
  let i := decode (Window.ofBytes bs)
  if i.length ≤ bs.length then .ok (i, bs.drop i.length) else .error .truncated

/-- The low `n` bytes of a number, least significant first. -/
def bytesOfNat : Nat → Nat → List Byte
  | 0, _ => []
  | n + 1, w => BitVec.ofNat 8 w :: bytesOfNat n (w / 256)

/-- The six bytes of a table word: the bits above `nbits` are zero. -/
def tableBytes (nbits w : Nat) : List Byte := bytesOfNat 6 (w % 2 ^ nbits)

/-- The instruction the decoder reads from a word numbered as spec/opcode_table.json numbers it. -/
def decodeTableWord (nbits w : Nat) : Option Instr :=
  some (decode (Window.ofBytes (tableBytes nbits w)))

end Sys2Proof
end

