-- ==== Sys2Proof/Config.lean ====
section
/-! DEFINITION. What the host or the platform fixes (00_scope.md R6): the construction parameters, MEM_SIZE and
MOD_SIGN, and the bytes Memory answers where the host loaded nothing. No value here is ever written by a step. -/

namespace Sys2Proof

/-- MOD_SIGN, the sign of a MOD result (00_scope.md R6, 43_alu_binary.md R236, decision D24). -/
inductive ModSign where
  /-- The remainder takes the sign of the first operand: the spec's default. -/
  | dividend
  /-- The remainder is the magnitude: the other value the parameter may take. -/
  | magnitude
  deriving DecidableEq, Repr

/-- The byte a read outside Memory answers: "an all-ones byte" (20_memory.md R61, R303). -/
def Config.outOfRangeByte : Byte := 0xFF

/-- What a byte inside Memory reads as when neither the host nor an instruction has written it.
DESIGN CHOICE, log 4, unsafe: the spec gives no value; 95_test_vectors.md takes memory as zero. -/
def Config.unwrittenByte : Byte := 0x00

/-- The construction parameters of R6 and 70_reset_and_hazards.md R330. -/
structure Config.Init where
  pc : Word
  sp : Word
  a : Word
  b : Word
  c : Word
  d : Word
  sb : Byte
  f0 : Half
  f1 : Half
  f2 : Half
  f3 : Half
  memSize : Nat
  modSign : ModSign
  deriving DecidableEq, Repr

/-- The parameters `State.reset` is constructed with: the common start state of 95_test_vectors.md.
DESIGN CHOICE, logs 1, 2, 3 and 5, unsafe: the spec leaves every one of them to the host. -/
def Config.start : Config.Init where
  pc := 0x00001000
  sp := 0x00008000
  a := 0
  b := 0
  c := 0
  d := 0
  sb := 0x00
  f0 := 0
  f1 := 0
  f2 := 0
  f3 := 0
  memSize := 0x10000
  modSign := .dividend

end Sys2Proof
end

