-- ==== Sys2Proof/Machine/State.lean ====
section
/-! DEFINITION. The state of the machine as plain data (10_state.md R20, 20_memory.md R61), the Delta of R34, the
reasons a step can stop, construction and reset (70_reset_and_hazards.md R330). -/

namespace Sys2Proof.Machine

/-- The architectural state of the core, "exactly" these pieces (10_state.md R20). -/
structure Arch where
  /-- Address of the next opcode byte (R25). -/
  pc : Word
  /-- Stack pointer: the last byte pushed (R26). -/
  sp : Word
  /-- Status byte: flags C H F T I V Z S in bits 0 to 7 (R30). -/
  sb : Byte
  /-- registers[0], A (R21). -/
  a : Word
  /-- registers[1], B. -/
  b : Word
  /-- registers[2], C. -/
  c : Word
  /-- registers[3], D. -/
  d : Word
  /-- fregisters[0], an opaque bit pattern no instruction reaches (R27). -/
  f0 : Half
  /-- fregisters[1]. -/
  f1 : Half
  /-- fregisters[2]. -/
  f2 : Half
  /-- fregisters[3]. -/
  f3 : Half
  deriving DecidableEq, Repr

/-- Memory behind the Bus (20_memory.md R61): its size MEM_SIZE and the bytes that differ from what an unlisted address
reads as, by rising address (`Memory.wf`). -/
structure Memory where
  size : Nat
  cells : List Host.Cell
  deriving DecidableEq, Repr

/-- The machine: the core, the memory behind the Bus, and the parameter MOD_SIGN (00_scope.md R6; log 5). -/
structure State where
  arch : Arch
  mem : Memory
  modSign : ModSign
  deriving DecidableEq, Repr

/-- The deferred write `(type, address, value)` of a Delta (10_state.md R34). -/
structure DeferredWrite where
  width : Width
  addr : Word
  value : Word
  deriving DecidableEq, Repr

/-- What one instruction proposes: the next architectural state and at most one deferred write (R34). -/
structure Delta where
  next : Arch
  write : Option DeferredWrite
  deriving DecidableEq, Repr

/-- The four outcomes of a step that 00_scope.md R11 tells apart. HALT and STUCK are both a next state equal to the
current one; this name says which it is (log 6). -/
inductive StepKind where
  /-- A Delta is applied. -/
  | delta
  /-- HLT: the run is over (40_control.md R131). -/
  | halt
  /-- WFI or an unassigned opcode byte: the same byte is decoded again, forever (R132, 30_encoding.md R110). -/
  | stuck
  /-- The spec gives the instruction no meaning (R111). -/
  | refuse
  deriving DecidableEq, Repr

/-- The faults of the core: there are none, "the core raises no synchronous exception" (60_exceptions.md R300, R307).
Safe: nothing raises one, so no claim can hide behind one (log 12). -/
inductive Fault where
  deriving DecidableEq, Repr

/-- Why a step is refused: the REFUSE outcome of 00_scope.md R11 and 30_encoding.md R111, by name. Each is safe: the model
stops where the spec says a model must not continue (log 7). -/
inductive Refusal where
  /-- An instruction of the table whose meaning is not written: raised by no arm of `exec` now. Safe. -/
  | notModelled (mnemonic : String)
  /-- REFUSE(RFI): raised by `execRfi` (40_control.md R134). Safe. -/
  | returnFromInterrupt
  /-- REFUSE(IRQ): raised by `execIrq` (R135). Safe. -/
  | interruptRequest
  /-- REFUSE(NMI): raised by `execNmi` (R136). Safe. -/
  | nonMaskableInterrupt
  /-- REFUSE(float data move): raised by every data-move meaning at T = 3 (41_data_move.md R150). Safe. -/
  | floatDataMove
  /-- REFUSE(float binop): raised by every binary arithmetic meaning at T = 3 (43_alu_binary.md R225). Safe. -/
  | floatBinop
  /-- REFUSE(float unop): raised by every unary arithmetic meaning at T = 3 (44_alu_unary.md R271). Safe. -/
  | floatUnop
  deriving DecidableEq, Repr

/-- What a step answers. -/
abbrev StepResult := Host.Outcome State Fault Refusal

/-- A core in the construction state, with nothing loaded into its memory (R330, R37). -/
def State.construct (p : Config.Init) : State where
  arch :=
    { pc := p.pc, sp := p.sp, sb := p.sb, a := p.a, b := p.b, c := p.c, d := p.d,
      f0 := p.f0, f1 := p.f1, f2 := p.f2, f3 := p.f3 }
  mem := { size := p.memSize, cells := [] }
  modSign := p.modSign

/-- The machine right after construction with the parameters of `Config.start` (logs 1 to 5). -/
def State.reset : State := State.construct Config.start

end Sys2Proof.Machine
end

