-- ==== Sys2Proof/Machine/Ops.lean ====
section
/-! DEFINITION. The named operations over widths, memory and control: masks (00_scope.md R9), MemRead and MemWrite
(20_memory.md R62), fetch (30_encoding.md R92), the host's load (70_reset_and_hazards.md R333) and the application of a
Delta (10_state.md R34). The core takes no exception and returns from none (60_exceptions.md R300, R307, R308), so no such
operation stands here. -/

namespace Sys2Proof

/-! ### Widths (R8, R9) -/

/-- W, the number of bits of a width. -/
def Width.bits : Width → Nat
  | .byte => 8
  | .word => 16
  | .long => 32

/-- M = type_mask(T). -/
def Width.mask : Width → Word
  | .byte => 0x000000FF
  | .word => 0x0000FFFF
  | .long => 0xFFFFFFFF

/-- SM = sign_mask(T). -/
def Width.signMask : Width → Word
  | .byte => 0x00000080
  | .word => 0x00008000
  | .long => 0x80000000

/-- sign(v): the top bit of the width (R9). -/
def Width.sign (w : Width) (v : Word) : Bool := decide (v &&& w.signMask ≠ 0)

/-- sext_16 of R10. -/
def sext16 (v : Half) : Word := v.signExtend 32

/-- zext_16 of R10. -/
def zext16 (v : Half) : Word := v.setWidth 32

namespace Machine

/-! ### Memory (20_memory.md R61, R62) -/

/-- The byte listed at an address, if any. -/
def findCell : List Host.Cell → Nat → Option Byte
  | [], _ => none
  | (b, x) :: rest, a => if b = a then some x else findCell rest a

/-- What an address that is not listed reads as: `Config.unwrittenByte` inside Memory, 0xFF outside (R61; log 4). -/
def Memory.unlisted (m : Memory) (a : Nat) : Byte :=
  if a < m.size then Config.unwrittenByte else Config.outOfRangeByte

/-- `byte(x)` of R62: the byte read at an address, 0xFF outside Memory. -/
def Memory.byte (m : Memory) (a : Word) : Byte :=
  if a.toNat < m.size then (findCell m.cells a.toNat).getD (m.unlisted a.toNat) else m.unlisted a.toNat

/-- The cells but those of one address. -/
def dropCell : List Host.Cell → Nat → List Host.Cell
  | [], _ => []
  | (b, x) :: rest, a => if b = a then dropCell rest a else (b, x) :: dropCell rest a

/-- A cell put before the first one of a greater address. -/
def insertCell : List Host.Cell → Nat → Byte → List Host.Cell
  | [], a, v => [(a, v)]
  | (b, x) :: rest, a, v => if a < b then (a, v) :: (b, x) :: rest else (b, x) :: insertCell rest a v

/-- The cells with the byte at one address replaced, in canonical form: a byte equal to what an unlisted address reads
as is not listed. -/
def putCell (cells : List Host.Cell) (a : Nat) (v : Byte) : List Host.Cell :=
  if v = Config.unwrittenByte then dropCell cells a else insertCell (dropCell cells a) a v

/-- One byte written; outside Memory it is dropped (R61, R303). -/
def Memory.setByte (m : Memory) (a : Word) (v : Byte) : Memory :=
  if a.toNat < m.size then { m with cells := putCell m.cells a.toNat v } else m

/-- Bytes written at rising addresses modulo 2^32 (R62, R63). -/
def Memory.writeBytes (m : Memory) (a : Word) : List Byte → Memory
  | [] => m
  | b :: bs => (m.setByte a b).writeBytes (a + 1) bs

/-- The `n` bytes read from an address, lowest address first, addresses modulo 2^32 (R62, R63). -/
def Memory.readBytes (m : Memory) (a : Word) : Nat → List Byte
  | 0 => []
  | n + 1 => m.byte a :: m.readBytes (a + 1) n

/-- A little-endian number: the first byte is bits 7:0 (R64). -/
def leWord : List Byte → Word
  | [] => 0
  | b :: bs => b.setWidth 32 ||| (leWord bs <<< 8)

/-- The first `n` bytes of a word, least significant first (R64). -/
def leBytes : Nat → Word → List Byte
  | 0, _ => []
  | n + 1, v => v.setWidth 8 :: leBytes n (v >>> 8)

/-- MemRead(a, n(T)) of R62, zero-extended to 32 bits. -/
def Memory.read (m : Memory) (w : Width) (a : Word) : Word := leWord (m.readBytes a w.bytes)

/-- What MemWrite(a, n(T), v) of R62 does when it is applied. -/
def Memory.write (m : Memory) (w : Width) (a : Word) (v : Word) : Memory :=
  m.writeBytes a (leBytes w.bytes v)

/-- The cells' addresses rise strictly from a bound on. -/
def cellsRise : Nat → List Host.Cell → Bool
  | _, [] => true
  | lo, (a, _) :: rest => decide (lo ≤ a) && cellsRise (a + 1) rest

/-- No cell lies outside Memory, and none holds what an unlisted address reads as. -/
def cellsListed (size : Nat) : List Host.Cell → Bool
  | [] => true
  | (a, v) :: rest => decide (a < size) && decide (v ≠ Config.unwrittenByte) && cellsListed size rest

/-- The canonical form of memory; MEM_SIZE is "1 to 2^32 bytes" (R61). -/
def Memory.wf (m : Memory) : Bool :=
  decide (1 ≤ m.size) && decide (m.size ≤ 2 ^ 32) && cellsRise 0 m.cells && cellsListed m.size m.cells

/-! ### Fetch (30_encoding.md R92) -/

/-- The bytes at pc, pc + 1, ... as the decoder takes them. Reading past the instruction's own bytes has no effect
(20_memory.md R67; log 13). -/
def State.window (s : State) : Window := Window.ofBytes (s.mem.readBytes s.arch.pc 6)

/-! ### The Delta (10_state.md R34, 70_reset_and_hazards.md R340, R341) -/

/-- The deferred write of a Delta, carried out. -/
def Memory.applyWrite (m : Memory) : Option DeferredWrite → Memory
  | none => m
  | some w => m.write w.width w.addr w.value

/-- Apply: the next architectural state is installed, then the deferred write is performed at the address computed
during decode. -/
def State.apply (s : State) (δ : Delta) : State :=
  { s with arch := δ.next, mem := s.mem.applyWrite δ.write }

/-- An instruction that produces a Delta with no deferred write (R35). -/
def State.commit (s : State) (next : Arch) : StepResult := .next (s.apply { next := next, write := none })

/-- An instruction that produces a Delta with a deferred write (R35). -/
def State.commitWrite (s : State) (next : Arch) (w : Width) (addr value : Word) : StepResult :=
  .next (s.apply { next := next, write := some { width := w, addr := addr, value := value } })

/-- HALT and STUCK: "a Delta whose next state equals the current state" (00_scope.md R11). -/
def State.unchanged (s : State) : StepResult := .next (s.apply { next := s.arch, write := none })

/-- pc_next: pc plus the length of the current instruction, modulo 2^32 (10_state.md R25). -/
def Arch.pcAfter (x : Arch) (length : Nat) : Word := x.pc + BitVec.ofNat 32 length

/-- `pc <- pc_next`. -/
def Arch.advance (x : Arch) (length : Nat) : Arch := { x with pc := x.pcAfter length }

/-- Runs a meaning at the width of a type tag; a Float tag is refused by the reason given (30_encoding.md R111). -/
def atWidth (t : TypeTag) (float : Refusal) (k : Width → StepResult) : StepResult :=
  match t.width? with
  | some w => k w
  | none => .refused float

/-! ### The host's load (70_reset_and_hazards.md R333, R345) -/

/-- Bytes placed in Memory by the host. -/
def State.load (s : State) (addr : Word) (bs : List Byte) : State :=
  { s with mem := s.mem.writeBytes addr bs }

/-- A memory in which the six bytes from an address on all exist: the memory itself where they do, else one of the
greatest size R61 allows (log 10). -/
def Memory.covering (m : Memory) (a : Word) : Memory :=
  if a.toNat + 6 ≤ m.size then m else { m with size := 2 ^ 32 }

/-- The six bytes of an instruction placed where the next fetch reads them (log 10). -/
def State.placeAtPc (s : State) (bs : List Byte) : State :=
  { s with mem := s.mem.covering s.arch.pc }.load s.arch.pc bs

end Machine

end Sys2Proof
end

