-- ==== Sys2Proof/Machine/Operands.lean ====
section
/-! DEFINITION. Operand forms: register views (10_state.md R22 to R24), effective addresses (41_data_move.md R151), jump
targets (42_control_transfer.md R180) and immediates (30_encoding.md R96). -/

namespace Sys2Proof.Machine

/-- The four physical general registers (10_state.md R21). -/
inductive Reg where
  | a
  | b
  | c
  | d
  deriving DecidableEq, Repr

/-- What a view index 0-15 names (10_state.md R22). -/
inductive View where
  /-- Indices 0-3: the low byte or word, or the whole, of a register. -/
  | low (r : Reg)
  /-- Indices 4-7: bits 15:8 at Byte, bits 31:16 at Word; invalid at Long. -/
  | high (r : Reg)
  /-- Index 8: the status byte, for MOV, PSH and POP. -/
  | status
  /-- Indices 9-15. -/
  | outOfRange
  deriving DecidableEq, Repr

/-- Whether an instruction may name the status byte as index 8: MOV, PSH and POP may, no other may (R23). -/
inductive ViewClass where
  | sbCapable
  | plain
  deriving DecidableEq, Repr

/-- The view of an index (R22). -/
def viewOf (i : ViewIdx) : View :=
  match i with
  | 0#4 => .low .a
  | 1#4 => .low .b
  | 2#4 => .low .c
  | 3#4 => .low .d
  | 4#4 => .high .a
  | 5#4 => .high .b
  | 6#4 => .high .c
  | 7#4 => .high .d
  | 8#4 => .status
  | _ => .outOfRange

/-- registers[r]. -/
def Arch.reg (x : Arch) : Reg → Word
  | .a => x.a
  | .b => x.b
  | .c => x.c
  | .d => x.d

/-- registers[r] <- v. -/
def Arch.setReg (x : Arch) (r : Reg) (v : Word) : Arch :=
  match r with
  | .a => { x with a := v }
  | .b => { x with b := v }
  | .c => { x with c := v }
  | .d => { x with d := v }

/-- `R(i, T)` of R23 for a view: an invalid read gives 0. -/
def Arch.readView (x : Arch) (k : ViewClass) (w : Width) : View → Word
  | .low r => x.reg r &&& w.mask
  | .high r =>
    match w with
    | .byte => (x.reg r >>> 8) &&& 0xFF
    | .word => x.reg r >>> 16
    | .long => 0
  | .status =>
    match k with
    | .sbCapable => x.sb.setWidth 32 &&& w.mask
    | .plain => 0
  | .outOfRange => 0

/-- `R(i, T) <- v` of R24 for a view: only the view's bits change, an invalid write is dropped. -/
def Arch.writeView (x : Arch) (k : ViewClass) (w : Width) (v : Word) : View → Arch
  | .low r => x.setReg r ((x.reg r &&& ~~~w.mask) ||| (v &&& w.mask))
  | .high r =>
    match w with
    | .byte => x.setReg r ((x.reg r &&& 0xFFFF00FF) ||| ((v &&& 0xFF) <<< 8))
    | .word => x.setReg r ((x.reg r &&& 0x0000FFFF) ||| (v <<< 16))
    | .long => x
  | .status =>
    match k with
    | .sbCapable => { x with sb := v.setWidth 8 }
    | .plain => x
  | .outOfRange => x

/-- `R(i, T)` (R23). -/
def Arch.read (x : Arch) (k : ViewClass) (w : Width) (i : ViewIdx) : Word := x.readView k w (viewOf i)

/-- `R(i, T) <- v` (R24). -/
def Arch.write (x : Arch) (k : ViewClass) (w : Width) (i : ViewIdx) (v : Word) : Arch :=
  x.writeView k w v (viewOf i)

/-- The immediate operand at a width (30_encoding.md R96): n(T) bytes, so no bit above the width. -/
def immAt (w : Width) (imm : Word) : Word := imm &&& w.mask

/-- The effective address of a direct LOD or STO: relative to the end of the instruction (R151). -/
def Arch.directAddr (x : Arch) (disp : Half) : Word := x.pcAfter 4 + sext16 disp

/-- The effective address of an indexed LOD or STO: the offset register is read at Long (R151). -/
def Arch.indexedAddr (x : Arch) (disp : Half) (o : ViewIdx) : Word :=
  x.directAddr disp + x.read .plain .long o

/-- The width a stack form moves: one byte when it names the status byte, whatever T is (41_data_move.md R161). -/
def stackWidth (w : Width) (d : ViewIdx) : Width := if d = 8 then .byte else w

/-- The target of a short relative jump, call or branch: 3 bytes long (42_control_transfer.md R180, R190). -/
def Arch.shortTarget (x : Arch) (disp : Half) : Word := x.pcAfter 3 + sext16 disp

/-- The target of a long relative jump or call: 5 bytes long (R180, C1). -/
def Arch.longTarget (x : Arch) (disp : Word) : Word := x.pcAfter 5 + disp

/-- sp after `n` bytes are pushed (10_state.md R26). -/
def Arch.spBelow (x : Arch) (w : Width) : Word := x.sp - BitVec.ofNat 32 w.bytes

/-- sp after `n` bytes are popped (R26). -/
def Arch.spAbove (x : Arch) (w : Width) : Word := x.sp + BitVec.ofNat 32 w.bytes

end Sys2Proof.Machine
end

