-- ==== Sys2Proof/Machine/Flags.lean ====
section
/-! DEFINITION. The status byte's flags (10_state.md R30 to R32) and the flag computations of the arithmetic groups
(43_alu_binary.md R221 to R224, 44_alu_unary.md R270). -/

namespace Sys2Proof.Machine

/-- The eight flags (10_state.md R30). -/
inductive Flag where
  /-- Carry. -/
  | c
  /-- Half-carry, unused by current operations. -/
  | h
  /-- Float-finite, reserved. -/
  | f
  /-- Trap: division by zero. -/
  | t
  /-- Interrupt-enable, reserved; enables nothing (60_exceptions.md R305). -/
  | i
  /-- Overflow. -/
  | v
  /-- Zero. -/
  | z
  /-- Sign. -/
  | s
  deriving DecidableEq, Repr

/-- The bit number of a flag in sb (R30). -/
def Flag.bit : Flag → Nat
  | .c => 0
  | .h => 1
  | .f => 2
  | .t => 3
  | .i => 4
  | .v => 5
  | .z => 6
  | .s => 7

/-- `read_flag` (R32). -/
def readFlag (sb : Byte) (g : Flag) : Bool := sb.getLsbD g.bit

/-- `write_flag` (R32). -/
def writeFlag (sb : Byte) (g : Flag) (b : Bool) : Byte :=
  if b then sb ||| (1#8 <<< g.bit) else sb &&& ~~~(1#8 <<< g.bit)

/-- `flags_set` (R32): all requested bits are 1. An internal helper: no instruction uses it. -/
def flagsSet (sb m : Byte) : Bool := decide (sb &&& m = m)

/-- `flags_clear` (R32): all requested bits are 0. An internal helper: no instruction uses it. -/
def flagsClear (sb m : Byte) : Bool := decide (sb &&& m = 0)

/-- What an arithmetic operation gives: its result, and each flag it names besides S and Z (43_alu_binary.md R220). -/
structure AluOut where
  result : Word
  /-- C, where the operation writes it. -/
  carry : Option Bool
  /-- V, where the operation writes it. -/
  overflow : Option Bool
  /-- Whether T is set; nothing clears it (R235). -/
  trap : Bool
  deriving DecidableEq, Repr

/-- A flag written where an operation names it. -/
def writeFlag? (sb : Byte) (g : Flag) : Option Bool → Byte
  | some b => writeFlag sb g b
  | none => sb

/-- The status byte after an arithmetic operation: S and Z always (R222, R270), C, V and T where named, every other bit
unchanged (R220). -/
def aluStatus (w : Width) (o : AluOut) (sb : Byte) : Byte :=
  let sb := writeFlag sb .s (w.sign o.result)
  let sb := writeFlag sb .z (decide (o.result &&& w.mask = 0))
  let sb := writeFlag? sb .c o.carry
  let sb := writeFlag? sb .v o.overflow
  if o.trap then writeFlag sb .t true else sb

/-- The magnitude `abs(v)` (R221). -/
def absAt (w : Width) (v : Word) : Word := if w.sign v then (-v) &&& w.mask else v

/-- Carry of the add-like operations (R223). -/
def carryAdd (s1 s2 sr : Bool) : Bool := (s1 && s2) || (s1 && !sr) || (s2 && !sr)

/-- Overflow of the add-like operations (R223). -/
def overflowAdd (s1 s2 sr : Bool) : Bool := (!sr && s1 && s2) || (sr && !s1 && !s2)

/-- "Carry(sub) as the source gives it": not the conventional borrow (R224, I11). -/
def carrySub (s1 s2 sr : Bool) : Bool := (sr && !s1 && !s2) || (!sr && s1 && s2)

/-- Overflow of the sub-like operations (R224, D21). -/
def overflowSub (s1 s2 sr : Bool) : Bool := (!sr && s1 && !s2) || (sr && !s1 && s2)

end Sys2Proof.Machine
end

