-- ==== Sys2Proof/Machine/Binary.lean ====
section
/-! DEFINITION. The binary arithmetic group 0x80-0xEF (43_alu_binary.md R220 to R239). Every form at T = 3 is refused
(R225). -/

namespace Sys2Proof.Machine

/-! ### The operations on values (R226 to R239) -/

/-- An operation that writes S and Z only (R231 to R233, R238, R239). -/
def plainOut (r : Word) : AluOut := { result := r, carry := none, overflow := none, trap := false }

/-- An operation that writes C and V as well (R223, R224, R234 to R237). -/
def carryOut (r : Word) (c v : Bool) : AluOut := { result := r, carry := some c, overflow := some v, trap := false }

/-- A 1-bit number from a flag. -/
def flagWord (b : Bool) : Word := if b then 1 else 0

/-- The sum v1 + v2 + carry-in with the flags of R223 (R226, R227). -/
def addOut (w : Width) (carryIn : Bool) (v1 v2 : Word) : AluOut :=
  let r := (v1 + v2 + flagWord carryIn) &&& w.mask
  carryOut r (carryAdd (w.sign v1) (w.sign v2) (w.sign r)) (overflowAdd (w.sign v1) (w.sign v2) (w.sign r))

/-- The difference v1 - v2 - borrow-in with the flags of R224 (R228 to R230). -/
def subOut (w : Width) (borrowIn : Bool) (v1 v2 : Word) : AluOut :=
  let r := (v1 - v2 - flagWord borrowIn) &&& w.mask
  carryOut r (carrySub (w.sign v1) (w.sign v2) (w.sign r)) (overflowSub (w.sign v1) (w.sign v2) (w.sign r))

/-- A result with its true sign restored: negated modulo 2^W where told to (R234, R235). -/
def restoreSign (w : Width) (negative : Bool) (v : Word) : Word := if negative then (-v) &&& w.mask else v

/-- MUL on magnitudes: the exact product truncated, overflow where "the truncated masked product, divided back by the
(non-zero) first magnitude, fails to reproduce the second magnitude" (R234). -/
def mulOut (w : Width) (v1 v2 : Word) : AluOut :=
  let a1 := absAt w v1
  let a2 := absAt w v2
  let p := BitVec.ofNat 32 (a1.toNat * a2.toNat) &&& w.mask
  let ovf := decide (a1 ≠ 0) && decide (p / a1 ≠ a2)
  carryOut (restoreSign w (w.sign v1 != w.sign v2) p) ovf ovf

/-- A zero divisor: the all-ones pattern, with T, C and V set (R235, R236, R301). -/
def zeroDivisorOut (w : Width) : AluOut :=
  { result := w.mask, carry := some true, overflow := some true, trap := true }

/-- DIV on magnitudes, truncating, sign by XOR of the signs (R235). -/
def divOut (w : Width) (v1 v2 : Word) : AluOut :=
  let a1 := absAt w v1
  let a2 := absAt w v2
  if a2 = 0 then zeroDivisorOut w
  else carryOut (restoreSign w (w.sign v1 != w.sign v2) (a1 / a2)) false false

/-- MOD on magnitudes; the remainder takes the dividend's sign where MOD_SIGN is Dividend (R236). -/
def modOut (m : ModSign) (w : Width) (v1 v2 : Word) : AluOut :=
  let a1 := absAt w v1
  let a2 := absAt w v2
  if a2 = 0 then zeroDivisorOut w
  else carryOut (restoreSign w (decide (m = .dividend) && w.sign v1) (a1 % a2)) false false

/-- Exponentiation by squaring modulo 2^32, over the low `n` bits of the exponent (R237; log 17). -/
def powLoop : Nat → Word → Nat → Word
  | 0, _, _ => 1
  | n + 1, b, e => (if e % 2 = 1 then b else 1) * powLoop n (b * b) (e / 2)

/-- Whether a1^e exceeds the mask: at once where a1 is 2 or more and e is 32 or more, else by the exact power (R237;
log 17). -/
def powOverflows (w : Width) (a1 e : Word) : Bool :=
  if a1.toNat < 2 then false
  else if 32 ≤ e.toNat then true
  else decide (w.mask.toNat < a1.toNat ^ e.toNat)

/-- POW: a negative exponent gives 0 with C and V clear; else the power of the magnitude, truncated, negated for a
negative base and an odd exponent (R237, C2). -/
def powOut (w : Width) (v1 v2 : Word) : AluOut :=
  if w.sign v2 then carryOut 0 false false
  else
    let a1 := absAt w v1
    let p := powLoop 32 a1 v2.toNat &&& w.mask
    let ovf := powOverflows w a1 v2
    carryOut (restoreSign w (w.sign v1 && v2.getLsbD 0) p) ovf ovf

/-- The lesser of two values as unsigned numbers (R238). -/
def minWord (v1 v2 : Word) : Word := if v1.toNat ≤ v2.toNat then v1 else v2

/-- The greater of two values as unsigned numbers (R239). -/
def maxWord (v1 v2 : Word) : Word := if v2.toNat ≤ v1.toNat then v1 else v2

/-! ### Operand fetch and write-back (R220) -/

/-- Whether an operation writes its result to the first operand: every one but CMP (R230). -/
inductive WriteBack where
  | writes
  | suppressed
  deriving DecidableEq, Repr

/-- Writes back a result and the flags the operation names, then moves past the instruction. The flags are written even
where the register write is dropped (R220). -/
def Arch.retireAlu (x : Arch) (wb : WriteBack) (w : Width) (d : ViewIdx) (o : AluOut) (length : Nat) : Arch :=
  let y :=
    match wb with
    | .writes => x.write .plain w d o.result
    | .suppressed => x
  { y.advance length with sb := aluStatus w o x.sb }

/-- A binary operation: what it gives in a state, at a width, of two values. -/
abbrev BinaryOp := State → Width → Word → Word → AluOut

/-- The register form, 2 bytes long (R220). -/
def binaryReg (wb : WriteBack) (op : BinaryOp) (t : TypeTag) (d r : ViewIdx) (s : State) : StepResult :=
  atWidth t .floatBinop fun w =>
    s.commit (s.arch.retireAlu wb w d (op s w (s.arch.read .plain w d) (s.arch.read .plain w r)) 2)

/-- The immediate form, 2 + n(T) bytes long (R220). -/
def binaryImm (wb : WriteBack) (op : BinaryOp) (t : TypeTag) (d : ViewIdx) (imm : Word) (s : State) : StepResult :=
  atWidth t .floatBinop fun w =>
    s.commit (s.arch.retireAlu wb w d (op s w (s.arch.read .plain w d) (immAt w imm)) (2 + w.bytes))

/-! ### The fourteen operations -/

/-- ADD on values (R226). -/
def addOp : BinaryOp := fun _ w => addOut w false

/-- ADDw d, s (R226). -/
def execAddReg (t : TypeTag) (d r : ViewIdx) (s : State) : StepResult :=
  binaryReg .writes addOp t d r s

/-- ADDw d, $imm (R226). -/
def execAddImm (t : TypeTag) (d : ViewIdx) (imm : Word) (s : State) : StepResult :=
  binaryImm .writes addOp t d imm s

/-- ADC on values: the carry flag added (R227). -/
def adcOp : BinaryOp := fun s w => addOut w (readFlag s.arch.sb .c)

/-- ADCw d, s (R227). -/
def execAdcReg (t : TypeTag) (d r : ViewIdx) (s : State) : StepResult :=
  binaryReg .writes adcOp t d r s

/-- ADCw d, $imm (R227). -/
def execAdcImm (t : TypeTag) (d : ViewIdx) (imm : Word) (s : State) : StepResult :=
  binaryImm .writes adcOp t d imm s

/-- SUB on values (R228). -/
def subOp : BinaryOp := fun _ w => subOut w false

/-- SUBw d, s (R228). -/
def execSubReg (t : TypeTag) (d r : ViewIdx) (s : State) : StepResult :=
  binaryReg .writes subOp t d r s

/-- SUBw d, $imm (R228). -/
def execSubImm (t : TypeTag) (d : ViewIdx) (imm : Word) (s : State) : StepResult :=
  binaryImm .writes subOp t d imm s

/-- SBC on values: the carry flag subtracted as a borrow (R229). -/
def sbcOp : BinaryOp := fun s w => subOut w (readFlag s.arch.sb .c)

/-- SBCw d, s (R229). -/
def execSbcReg (t : TypeTag) (d r : ViewIdx) (s : State) : StepResult :=
  binaryReg .writes sbcOp t d r s

/-- SBCw d, $imm (R229). -/
def execSbcImm (t : TypeTag) (d : ViewIdx) (imm : Word) (s : State) : StepResult :=
  binaryImm .writes sbcOp t d imm s

/-- CMP on values: as SUB, not written back (R230). -/
def cmpOp : BinaryOp := fun _ w => subOut w false

/-- CMPw d, s (R230). -/
def execCmpReg (t : TypeTag) (d r : ViewIdx) (s : State) : StepResult :=
  binaryReg .suppressed cmpOp t d r s

/-- CMPw d, $imm (R230). -/
def execCmpImm (t : TypeTag) (d : ViewIdx) (imm : Word) (s : State) : StepResult :=
  binaryImm .suppressed cmpOp t d imm s

/-- AND on values (R231). -/
def andOp : BinaryOp := fun _ _ v1 v2 => plainOut (v1 &&& v2)

/-- ANDw d, s (R231). -/
def execAndReg (t : TypeTag) (d r : ViewIdx) (s : State) : StepResult :=
  binaryReg .writes andOp t d r s

/-- ANDw d, $imm (R231). -/
def execAndImm (t : TypeTag) (d : ViewIdx) (imm : Word) (s : State) : StepResult :=
  binaryImm .writes andOp t d imm s

/-- OR on values (R232). -/
def orOp : BinaryOp := fun _ _ v1 v2 => plainOut (v1 ||| v2)

/-- ORw d, s (R232). -/
def execOrReg (t : TypeTag) (d r : ViewIdx) (s : State) : StepResult :=
  binaryReg .writes orOp t d r s

/-- ORw d, $imm (R232). -/
def execOrImm (t : TypeTag) (d : ViewIdx) (imm : Word) (s : State) : StepResult :=
  binaryImm .writes orOp t d imm s

/-- XOR on values (R233). -/
def xorOp : BinaryOp := fun _ _ v1 v2 => plainOut (v1 ^^^ v2)

/-- XORw d, s (R233). -/
def execXorReg (t : TypeTag) (d r : ViewIdx) (s : State) : StepResult :=
  binaryReg .writes xorOp t d r s

/-- XORw d, $imm (R233). -/
def execXorImm (t : TypeTag) (d : ViewIdx) (imm : Word) (s : State) : StepResult :=
  binaryImm .writes xorOp t d imm s

/-- MUL on values (R234). -/
def mulOp : BinaryOp := fun _ w => mulOut w

/-- MULw d, s (R234). -/
def execMulReg (t : TypeTag) (d r : ViewIdx) (s : State) : StepResult :=
  binaryReg .writes mulOp t d r s

/-- MULw d, $imm (R234). -/
def execMulImm (t : TypeTag) (d : ViewIdx) (imm : Word) (s : State) : StepResult :=
  binaryImm .writes mulOp t d imm s

/-- DIV on values (R235). -/
def divOp : BinaryOp := fun _ w => divOut w

/-- DIVw d, s (R235). -/
def execDivReg (t : TypeTag) (d r : ViewIdx) (s : State) : StepResult :=
  binaryReg .writes divOp t d r s

/-- DIVw d, $imm (R235). -/
def execDivImm (t : TypeTag) (d : ViewIdx) (imm : Word) (s : State) : StepResult :=
  binaryImm .writes divOp t d imm s

/-- MOD on values (R236). -/
def modOp : BinaryOp := fun s w => modOut s.modSign w

/-- MODw d, s (R236). -/
def execModReg (t : TypeTag) (d r : ViewIdx) (s : State) : StepResult :=
  binaryReg .writes modOp t d r s

/-- MODw d, $imm (R236). -/
def execModImm (t : TypeTag) (d : ViewIdx) (imm : Word) (s : State) : StepResult :=
  binaryImm .writes modOp t d imm s

/-- POW on values (R237). -/
def powOp : BinaryOp := fun _ w => powOut w

/-- POWw d, s (R237). -/
def execPowReg (t : TypeTag) (d r : ViewIdx) (s : State) : StepResult :=
  binaryReg .writes powOp t d r s

/-- POWw d, $imm (R237). -/
def execPowImm (t : TypeTag) (d : ViewIdx) (imm : Word) (s : State) : StepResult :=
  binaryImm .writes powOp t d imm s

/-- MIN on values (R238). -/
def minOp : BinaryOp := fun _ _ v1 v2 => plainOut (minWord v1 v2)

/-- MINw d, s (R238). -/
def execMinReg (t : TypeTag) (d r : ViewIdx) (s : State) : StepResult :=
  binaryReg .writes minOp t d r s

/-- MINw d, $imm (R238). -/
def execMinImm (t : TypeTag) (d : ViewIdx) (imm : Word) (s : State) : StepResult :=
  binaryImm .writes minOp t d imm s

/-- MAX on values (R239). -/
def maxOp : BinaryOp := fun _ _ v1 v2 => plainOut (maxWord v1 v2)

/-- MAXw d, s (R239). -/
def execMaxReg (t : TypeTag) (d r : ViewIdx) (s : State) : StepResult :=
  binaryReg .writes maxOp t d r s

/-- MAXw d, $imm (R239). -/
def execMaxImm (t : TypeTag) (d : ViewIdx) (imm : Word) (s : State) : StepResult :=
  binaryImm .writes maxOp t d imm s

end Sys2Proof.Machine
end

