-- ==== Sys2Proof/Machine/Control.lean ====
section
/-! DEFINITION. The control group 0x00-0x0F (40_control.md R130 to R142). -/

namespace Sys2Proof.Machine

/-- NOP: `pc <- pc_next` (R130). -/
def execNop (s : State) : StepResult := s.commit (s.arch.advance 1)

/-- HLT: outcome HALT, the next state equals the current state (R131, R343; log 6). -/
def execHlt (s : State) : StepResult := s.unchanged

/-- WFI: outcome STUCK, the next state equals the current state; the wait never ends (R132; log 6). -/
def execWfi (s : State) : StepResult := s.unchanged

/-- RET: pc from the four bytes at sp, sp + 4 (R133). -/
def execRet (s : State) : StepResult :=
  s.commit { s.arch with pc := s.mem.read .long s.arch.sp, sp := s.arch.spAbove .long }

/-- RFI: REFUSE(RFI) (R134; log 7). -/
def execRfi (_ : State) : StepResult := .refused .returnFromInterrupt

/-- IRQ: REFUSE(IRQ) (R135; log 7). -/
def execIrq (_ : State) : StepResult := .refused .interruptRequest

/-- NMI: REFUSE(NMI) (R136; log 7). -/
def execNmi (_ : State) : StepResult := .refused .nonMaskableInterrupt

/-- Status-byte logic: the whole of sb takes the result (R137 to R142); every form is 2 bytes long. -/
def statusLogic (s : State) (sb : Byte) : StepResult :=
  s.commit { s.arch.advance 2 with sb := sb }

/-- The register operand of status-byte logic: read at Byte, not sb-capable (R137). -/
def Arch.statusOperand (x : Arch) (d : ViewIdx) : Byte := (x.read .plain .byte d).setWidth 8

/-- ANDS d (R137). -/
def execAndsReg (d : ViewIdx) (s : State) : StepResult := statusLogic s (s.arch.sb &&& s.arch.statusOperand d)

/-- ORS d (R138). -/
def execOrsReg (d : ViewIdx) (s : State) : StepResult := statusLogic s (s.arch.sb ||| s.arch.statusOperand d)

/-- XORS d (R139). -/
def execXorsReg (d : ViewIdx) (s : State) : StepResult := statusLogic s (s.arch.sb ^^^ s.arch.statusOperand d)

/-- ANDS $imm (R140). -/
def execAndsImm (imm : Byte) (s : State) : StepResult := statusLogic s (s.arch.sb &&& imm)

/-- ORS $imm (R141). -/
def execOrsImm (imm : Byte) (s : State) : StepResult := statusLogic s (s.arch.sb ||| imm)

/-- XORS $imm (R142). -/
def execXorsImm (imm : Byte) (s : State) : StepResult := statusLogic s (s.arch.sb ^^^ imm)

end Sys2Proof.Machine
end

