-- ==== Sys2Proof/Machine/DataMove.lean ====
section
/-! DEFINITION. The data-move group 0x10-0x5F (41_data_move.md R150 to R161). Every form at T = 3 is refused (R150). -/

namespace Sys2Proof.Machine

/-- A load of width T from an address: `R(d, T) <- MemRead(EA, n(T))`, 4 bytes long (R152, R153). -/
def loadFrom (t : TypeTag) (d : ViewIdx) (addr : Word) (s : State) : StepResult :=
  atWidth t .floatDataMove fun w =>
    s.commit ((s.arch.write .plain w d (s.mem.read w addr)).advance 4)

/-- A store of width T to an address: `MemWrite(EA, n(T), R(d, T))`, deferred, 4 bytes long (R154, R155). -/
def storeTo (t : TypeTag) (d : ViewIdx) (addr : Word) (s : State) : StepResult :=
  atWidth t .floatDataMove fun w =>
    s.commitWrite (s.arch.advance 4) w addr (s.arch.read .plain w d)

/-- LODw d, addr (R152). -/
def execLodDirect (t : TypeTag) (d : ViewIdx) (disp : Half) (s : State) : StepResult :=
  loadFrom t d (s.arch.directAddr disp) s

/-- LODw d, addr(s) (R153). -/
def execLodIndexed (t : TypeTag) (d o : ViewIdx) (disp : Half) (s : State) : StepResult :=
  loadFrom t d (s.arch.indexedAddr disp o) s

/-- STOw addr, d (R154). -/
def execStoDirect (t : TypeTag) (d : ViewIdx) (disp : Half) (s : State) : StepResult :=
  storeTo t d (s.arch.directAddr disp) s

/-- STOw addr(s), d (R155). -/
def execStoIndexed (t : TypeTag) (d o : ViewIdx) (disp : Half) (s : State) : StepResult :=
  storeTo t d (s.arch.indexedAddr disp o) s

/-- MOVw d, s: both operands may be the status byte (R156, R161). -/
def execMovReg (t : TypeTag) (d r : ViewIdx) (s : State) : StepResult :=
  atWidth t .floatDataMove fun w =>
    s.commit ((s.arch.write .sbCapable w d (s.arch.read .sbCapable w r)).advance 2)

/-- MOVw d, $imm: the immediate has n(T) bytes whatever d is (R157, R161). -/
def execMovImm (t : TypeTag) (d : ViewIdx) (imm : Word) (s : State) : StepResult :=
  atWidth t .floatDataMove fun w =>
    s.commit ((s.arch.write .sbCapable w d (immAt w imm)).advance (2 + w.bytes))

/-- SWPw a, b: both read before either is written; neither may be the status byte (R158). -/
def execSwp (t : TypeTag) (a b : ViewIdx) (s : State) : StepResult :=
  atWidth t .floatDataMove fun w =>
    let va := s.arch.read .plain w a
    let vb := s.arch.read .plain w b
    s.commit (((s.arch.write .plain w a vb).write .plain w b va).advance 2)

/-- PSHw d: a deferred write at the decremented sp; the status byte is one byte (R159, R161). -/
def execPsh (t : TypeTag) (d : ViewIdx) (s : State) : StepResult :=
  atWidth t .floatDataMove fun w =>
    let n := stackWidth w d
    let sp := s.arch.spBelow n
    s.commitWrite { s.arch.advance 2 with sp := sp } n sp (s.arch.read .sbCapable n d)

/-- POPw d: a read at sp, then sp is incremented; the status byte is one byte (R160, R161). -/
def execPop (t : TypeTag) (d : ViewIdx) (s : State) : StepResult :=
  atWidth t .floatDataMove fun w =>
    let n := stackWidth w d
    s.commit { (s.arch.write .sbCapable n d (s.mem.read n s.arch.sp)).advance 2 with sp := s.arch.spAbove n }

end Sys2Proof.Machine
end

