-- ==== Sys2Proof/Machine/Reserved.lean ====
section
/-! DEFINITION. The unassigned opcode bytes: an unassigned byte "performs no operation and returns the state unchanged"
(30_encoding.md R110, C7). The outcome is STUCK: pc is unchanged too, and no operand byte is read. -/

namespace Sys2Proof.Machine

/-- Unassigned 0x07 (R110, R143). -/
def execUnassigned07 (s : State) : StepResult := s.unchanged

/-- Unassigned 0x0B (R110, R143). -/
def execUnassigned0B (s : State) : StepResult := s.unchanged

/-- Unassigned 0x0F (R110, R143). -/
def execUnassigned0F (s : State) : StepResult := s.unchanged

/-- Unassigned 0x18 to 0x1F (R110, R162). -/
def execUnassigned18 (_ : BitVec 3) (s : State) : StepResult := s.unchanged

/-- Unassigned 0x28 to 0x2F (R110, R162). -/
def execUnassigned28 (_ : BitVec 3) (s : State) : StepResult := s.unchanged

/-- Unassigned 0x38 to 0x3F (R110, R162). -/
def execUnassigned38 (_ : BitVec 3) (s : State) : StepResult := s.unchanged

/-- Unassigned 0x44 to 0x47 (R110, R162). -/
def execUnassigned44 (_ : BitVec 2) (s : State) : StepResult := s.unchanged

/-- Unassigned 0x48 to 0x4F (R110, R162). -/
def execUnassigned48 (_ : BitVec 3) (s : State) : StepResult := s.unchanged

/-- Unassigned 0x58 to 0x5F (R110, R162). -/
def execUnassigned58 (_ : BitVec 3) (s : State) : StepResult := s.unchanged

/-- Unassigned 0xFC to 0xFF (R110, R284). -/
def execUnassignedFC (_ : BitVec 2) (s : State) : StepResult := s.unchanged

end Sys2Proof.Machine
end

