-- ==== Sys2Proof/Machine/Transfer.lean ====
section
/-! DEFINITION. The control-transfer group 0x60-0x7F (42_control_transfer.md R180 to R206). -/

namespace Sys2Proof.Machine

/-- A plain jump: the target replaces pc, nothing else changes (R180). -/
def jumpTo (target : Word) (s : State) : StepResult := s.commit { s.arch with pc := target }

/-- A call: the post-instruction pc is pushed as a deferred long write at sp - 4, then the target replaces pc (R180). -/
def callTo (length : Nat) (target : Word) (s : State) : StepResult :=
  let sp := s.arch.spBelow .long
  s.commitWrite { s.arch with pc := target, sp := sp } .long sp (s.arch.pcAfter length)

/-- A conditional branch: taken iff the flag equals the wanted value; 3 bytes long (R190). -/
def branchIf (g : Flag) (want : Bool) (off : Half) (s : State) : StepResult :=
  if readFlag s.arch.sb g = want then jumpTo (s.arch.shortTarget off) s else s.commit (s.arch.advance 3)

/-- JMP addr: short relative jump (R181). -/
def execJmp (addr : Half) (s : State) : StepResult := jumpTo (s.arch.shortTarget addr) s

/-- JMPL addr: long relative jump (R182). -/
def execJmpl (addr : Word) (s : State) : StepResult := jumpTo (s.arch.longTarget addr) s

/-- JSR addr: short relative call (R183). -/
def execJsr (addr : Half) (s : State) : StepResult := callTo 3 (s.arch.shortTarget addr) s

/-- JSRL addr: long relative call (R184). -/
def execJsrl (addr : Word) (s : State) : StepResult := callTo 5 (s.arch.longTarget addr) s

/-- JMPA addr: short absolute jump (R185). -/
def execJmpa (addr : Half) (s : State) : StepResult := jumpTo (zext16 addr) s

/-- JMPAL addr: long absolute jump (R186). -/
def execJmpal (addr : Word) (s : State) : StepResult := jumpTo addr s

/-- JSRA addr: short absolute call (R187). -/
def execJsra (addr : Half) (s : State) : StepResult := callTo 3 (zext16 addr) s

/-- JSRAL addr: long absolute call (R188). -/
def execJsral (addr : Word) (s : State) : StepResult := callTo 5 addr s

/-- BCC addr: branch if C = 0 (R191). -/
def execBcc (off : Half) (s : State) : StepResult := branchIf .c false off s

/-- BHC addr: branch if H = 0 (R192). -/
def execBhc (off : Half) (s : State) : StepResult := branchIf .h false off s

/-- BFC addr: branch if F = 0 (R193). -/
def execBfc (off : Half) (s : State) : StepResult := branchIf .f false off s

/-- BTC addr: branch if T = 0 (R194). -/
def execBtc (off : Half) (s : State) : StepResult := branchIf .t false off s

/-- BIC addr: branch if I = 0 (R195). -/
def execBic (off : Half) (s : State) : StepResult := branchIf .i false off s

/-- BVC addr: branch if V = 0 (R196). -/
def execBvc (off : Half) (s : State) : StepResult := branchIf .v false off s

/-- BZC addr: branch if Z = 0 (R197). -/
def execBzc (off : Half) (s : State) : StepResult := branchIf .z false off s

/-- BSC addr: branch if S = 0 (R198). -/
def execBsc (off : Half) (s : State) : StepResult := branchIf .s false off s

/-- BCS addr: branch if C = 1 (R199). -/
def execBcs (off : Half) (s : State) : StepResult := branchIf .c true off s

/-- BHS addr: branch if H = 1 (R200). -/
def execBhs (off : Half) (s : State) : StepResult := branchIf .h true off s

/-- BFS addr: branch if F = 1 (R201). -/
def execBfs (off : Half) (s : State) : StepResult := branchIf .f true off s

/-- BTS addr: branch if T = 1 (R202). -/
def execBts (off : Half) (s : State) : StepResult := branchIf .t true off s

/-- BIS addr: branch if I = 1 (R203). -/
def execBis (off : Half) (s : State) : StepResult := branchIf .i true off s

/-- BVS addr: branch if V = 1 (R204). -/
def execBvs (off : Half) (s : State) : StepResult := branchIf .v true off s

/-- BZS addr: branch if Z = 1 (R205). -/
def execBzs (off : Half) (s : State) : StepResult := branchIf .z true off s

/-- BSS addr: branch if S = 1 (R206). -/
def execBss (off : Half) (s : State) : StepResult := branchIf .s true off s

end Sys2Proof.Machine
end

