-- ==== Sys2Proof/Machine/Unary.lean ====
section
/-! DEFINITION. The unary arithmetic group 0xF0-0xFB (44_alu_unary.md R270 to R283). Every form at T = 3 is refused
(R271). -/

namespace Sys2Proof.Machine

/-- A unary operation that writes C as well as S and Z (R270, R280 to R283). -/
def shiftOut (r : Word) (c : Bool) : AluOut := { result := r, carry := some c, overflow := none, trap := false }

/-- A unary operation: what it gives at a width of a value. -/
abbrev UnaryOp := Width → Word → AluOut

/-- Operand fetch and write-back, 2 bytes long (R270). -/
def unary (wb : WriteBack) (op : UnaryOp) (t : TypeTag) (d : ViewIdx) (s : State) : StepResult :=
  atWidth t .floatUnop fun w =>
    s.commit (s.arch.retireAlu wb w d (op w (s.arch.read .plain w d)) 2)

/-- SXT: the value sign-extended from the next smaller width; a byte is returned unchanged (R278). -/
def sxtWord (w : Width) (v : Word) : Word :=
  match w with
  | .byte => v
  | .word => ((v.extractLsb' 0 8).signExtend 16).setWidth 32
  | .long => (v.extractLsb' 0 16).signExtend 32

/-- ZXT: the value zero-extended from the next smaller width; a byte is returned unchanged (R279). -/
def zxtWord (w : Width) (v : Word) : Word :=
  match w with
  | .byte => v
  | .word => v &&& 0xFF
  | .long => v &&& 0xFFFF

/-- INC on a value: (v + 1) & M (R272). -/
def incOp : UnaryOp := fun w v => plainOut ((v + 1) &&& w.mask)

/-- INCw d (R272). -/
def execInc (t : TypeTag) (d : ViewIdx) (s : State) : StepResult := unary .writes incOp t d s

/-- DEC on a value: (v - 1) & M (R273). -/
def decOp : UnaryOp := fun w v => plainOut ((v - 1) &&& w.mask)

/-- DECw d (R273). -/
def execDec (t : TypeTag) (d : ViewIdx) (s : State) : StepResult := unary .writes decOp t d s

/-- TST on a value: the flags of the complement, not written back (R274). -/
def tstOp : UnaryOp := fun w v => plainOut (~~~v &&& w.mask)

/-- TSTw d (R274). -/
def execTst (t : TypeTag) (d : ViewIdx) (s : State) : StepResult := unary .suppressed tstOp t d s

/-- COM on a value: the complement (R275). -/
def comOp : UnaryOp := fun w v => plainOut (~~~v &&& w.mask)

/-- COMw d (R275). -/
def execCom (t : TypeTag) (d : ViewIdx) (s : State) : StepResult := unary .writes comOp t d s

/-- NEG on a value: (-v) & M (R276). -/
def negOp : UnaryOp := fun w v => plainOut ((-v) &&& w.mask)

/-- NEGw d (R276). -/
def execNeg (t : TypeTag) (d : ViewIdx) (s : State) : StepResult := unary .writes negOp t d s

/-- ABS on a value: the magnitude (R277). -/
def absOp : UnaryOp := fun w v => plainOut (absAt w v)

/-- ABSw d (R277). -/
def execAbs (t : TypeTag) (d : ViewIdx) (s : State) : StepResult := unary .writes absOp t d s

/-- SXT on a value: sign extension (R278). -/
def sxtOp : UnaryOp := fun w v => plainOut (sxtWord w v)

/-- SXTw d (R278). -/
def execSxt (t : TypeTag) (d : ViewIdx) (s : State) : StepResult := unary .writes sxtOp t d s

/-- ZXT on a value: zero extension (R279). -/
def zxtOp : UnaryOp := fun w v => plainOut (zxtWord w v)

/-- ZXTw d (R279). -/
def execZxt (t : TypeTag) (d : ViewIdx) (s : State) : StepResult := unary .writes zxtOp t d s

/-- SHL on a value: the top bit goes to C (R280). -/
def shlOp : UnaryOp := fun w v => shiftOut ((v <<< 1) &&& w.mask) (w.sign v)

/-- SHLw d (R280). -/
def execShl (t : TypeTag) (d : ViewIdx) (s : State) : StepResult := unary .writes shlOp t d s

/-- SHR on a value: logical, C is cleared (I8) (R281). -/
def shrOp : UnaryOp := fun w v => shiftOut ((v &&& w.mask) >>> 1) false

/-- SHRw d (R281). -/
def execShr (t : TypeTag) (d : ViewIdx) (s : State) : StepResult := unary .writes shrOp t d s

/-- ROL on a value: the top bit goes to bit 0 and to C, not through carry (R282). -/
def rolOp : UnaryOp := fun w v => shiftOut (((v <<< 1) ||| flagWord (w.sign v)) &&& w.mask) (w.sign v)

/-- ROLw d (R282). -/
def execRol (t : TypeTag) (d : ViewIdx) (s : State) : StepResult := unary .writes rolOp t d s

/-- ROR on a value: bit 0 goes to the top bit and to C, not through carry (R283). -/
def rorOp : UnaryOp := fun w v => shiftOut (((v &&& w.mask) >>> 1) ||| (flagWord (v.getLsbD 0) <<< (w.bits - 1))) (v.getLsbD 0)

/-- RORw d (R283). -/
def execRor (t : TypeTag) (d : ViewIdx) (s : State) : StepResult := unary .writes rorOp t d s

end Sys2Proof.Machine
end

