-- ==== Sys2Proof/Machine/Dispatch.lean ====
section
/-! DEFINITION. One arm for each constructor of `Instr`, in the order of spec/opcode_table.json. -/

namespace Sys2Proof.Machine

def exec (i : Instr) (s : State) : Host.Outcome State Fault Refusal :=
  match i with
  | .nop => Sys2Proof.Machine.execNop s
  | .hlt => Sys2Proof.Machine.execHlt s
  | .wfi => Sys2Proof.Machine.execWfi s
  | .ret => Sys2Proof.Machine.execRet s
  | .rfi => Sys2Proof.Machine.execRfi s
  | .irq => Sys2Proof.Machine.execIrq s
  | .nmi => Sys2Proof.Machine.execNmi s
  | .andsReg d => Sys2Proof.Machine.execAndsReg d s
  | .orsReg d => Sys2Proof.Machine.execOrsReg d s
  | .xorsReg d => Sys2Proof.Machine.execXorsReg d s
  | .andsImm imm => Sys2Proof.Machine.execAndsImm imm s
  | .orsImm imm => Sys2Proof.Machine.execOrsImm imm s
  | .xorsImm imm => Sys2Proof.Machine.execXorsImm imm s
  | .lodDirect t d disp => Sys2Proof.Machine.execLodDirect t d disp s
  | .lodIndexed t d o disp => Sys2Proof.Machine.execLodIndexed t d o disp s
  | .stoDirect t d disp => Sys2Proof.Machine.execStoDirect t d disp s
  | .stoIndexed t d o disp => Sys2Proof.Machine.execStoIndexed t d o disp s
  | .movReg t d r => Sys2Proof.Machine.execMovReg t d r s
  | .movImm t d imm => Sys2Proof.Machine.execMovImm t d imm s
  | .swp t a b => Sys2Proof.Machine.execSwp t a b s
  | .psh t d => Sys2Proof.Machine.execPsh t d s
  | .pop t d => Sys2Proof.Machine.execPop t d s
  | .jmp addr => Sys2Proof.Machine.execJmp addr s
  | .jmpl addr => Sys2Proof.Machine.execJmpl addr s
  | .jsr addr => Sys2Proof.Machine.execJsr addr s
  | .jsrl addr => Sys2Proof.Machine.execJsrl addr s
  | .jmpa addr => Sys2Proof.Machine.execJmpa addr s
  | .jmpal addr => Sys2Proof.Machine.execJmpal addr s
  | .jsra addr => Sys2Proof.Machine.execJsra addr s
  | .jsral addr => Sys2Proof.Machine.execJsral addr s
  | .bcc off => Sys2Proof.Machine.execBcc off s
  | .bhc off => Sys2Proof.Machine.execBhc off s
  | .bfc off => Sys2Proof.Machine.execBfc off s
  | .btc off => Sys2Proof.Machine.execBtc off s
  | .bic off => Sys2Proof.Machine.execBic off s
  | .bvc off => Sys2Proof.Machine.execBvc off s
  | .bzc off => Sys2Proof.Machine.execBzc off s
  | .bsc off => Sys2Proof.Machine.execBsc off s
  | .bcs off => Sys2Proof.Machine.execBcs off s
  | .bhs off => Sys2Proof.Machine.execBhs off s
  | .bfs off => Sys2Proof.Machine.execBfs off s
  | .bts off => Sys2Proof.Machine.execBts off s
  | .bis off => Sys2Proof.Machine.execBis off s
  | .bvs off => Sys2Proof.Machine.execBvs off s
  | .bzs off => Sys2Proof.Machine.execBzs off s
  | .bss off => Sys2Proof.Machine.execBss off s
  | .addReg t d r => Sys2Proof.Machine.execAddReg t d r s
  | .addImm t d imm => Sys2Proof.Machine.execAddImm t d imm s
  | .adcReg t d r => Sys2Proof.Machine.execAdcReg t d r s
  | .adcImm t d imm => Sys2Proof.Machine.execAdcImm t d imm s
  | .subReg t d r => Sys2Proof.Machine.execSubReg t d r s
  | .subImm t d imm => Sys2Proof.Machine.execSubImm t d imm s
  | .sbcReg t d r => Sys2Proof.Machine.execSbcReg t d r s
  | .sbcImm t d imm => Sys2Proof.Machine.execSbcImm t d imm s
  | .cmpReg t d r => Sys2Proof.Machine.execCmpReg t d r s
  | .cmpImm t d imm => Sys2Proof.Machine.execCmpImm t d imm s
  | .andReg t d r => Sys2Proof.Machine.execAndReg t d r s
  | .andImm t d imm => Sys2Proof.Machine.execAndImm t d imm s
  | .orReg t d r => Sys2Proof.Machine.execOrReg t d r s
  | .orImm t d imm => Sys2Proof.Machine.execOrImm t d imm s
  | .xorReg t d r => Sys2Proof.Machine.execXorReg t d r s
  | .xorImm t d imm => Sys2Proof.Machine.execXorImm t d imm s
  | .mulReg t d r => Sys2Proof.Machine.execMulReg t d r s
  | .mulImm t d imm => Sys2Proof.Machine.execMulImm t d imm s
  | .divReg t d r => Sys2Proof.Machine.execDivReg t d r s
  | .divImm t d imm => Sys2Proof.Machine.execDivImm t d imm s
  | .modReg t d r => Sys2Proof.Machine.execModReg t d r s
  | .modImm t d imm => Sys2Proof.Machine.execModImm t d imm s
  | .powReg t d r => Sys2Proof.Machine.execPowReg t d r s
  | .powImm t d imm => Sys2Proof.Machine.execPowImm t d imm s
  | .minReg t d r => Sys2Proof.Machine.execMinReg t d r s
  | .minImm t d imm => Sys2Proof.Machine.execMinImm t d imm s
  | .maxReg t d r => Sys2Proof.Machine.execMaxReg t d r s
  | .maxImm t d imm => Sys2Proof.Machine.execMaxImm t d imm s
  | .inc t d => Sys2Proof.Machine.execInc t d s
  | .dec t d => Sys2Proof.Machine.execDec t d s
  | .tst t d => Sys2Proof.Machine.execTst t d s
  | .com t d => Sys2Proof.Machine.execCom t d s
  | .neg t d => Sys2Proof.Machine.execNeg t d s
  | .abs t d => Sys2Proof.Machine.execAbs t d s
  | .sxt t d => Sys2Proof.Machine.execSxt t d s
  | .zxt t d => Sys2Proof.Machine.execZxt t d s
  | .shl t d => Sys2Proof.Machine.execShl t d s
  | .shr t d => Sys2Proof.Machine.execShr t d s
  | .rol t d => Sys2Proof.Machine.execRol t d s
  | .ror t d => Sys2Proof.Machine.execRor t d s
  | .unassigned07 => Sys2Proof.Machine.execUnassigned07 s
  | .unassigned0B => Sys2Proof.Machine.execUnassigned0B s
  | .unassigned0F => Sys2Proof.Machine.execUnassigned0F s
  | .unassigned18 low => Sys2Proof.Machine.execUnassigned18 low s
  | .unassigned28 low => Sys2Proof.Machine.execUnassigned28 low s
  | .unassigned38 low => Sys2Proof.Machine.execUnassigned38 low s
  | .unassigned44 low => Sys2Proof.Machine.execUnassigned44 low s
  | .unassigned48 low => Sys2Proof.Machine.execUnassigned48 low s
  | .unassigned58 low => Sys2Proof.Machine.execUnassigned58 low s
  | .unassignedFC low => Sys2Proof.Machine.execUnassignedFC low s

end Sys2Proof.Machine
end

