-- ==== Sys2Proof/Machine/Step.lean ====
section
/-! DEFINITION. One step of the core (70_reset_and_hazards.md R340): the instruction at pc is decoded and its Delta
applied; and the host's way of putting an instruction where the next step fetches it. -/

namespace Sys2Proof.Machine

/-- One step: "`decode()` reads one opcode byte at `pc`" (30_encoding.md R91), and the instruction runs (R340). -/
def step (s : State) : Host.Outcome State Fault Refusal := exec (decode s.window) s

/-- `s` with the instruction of a table word placed by the host at pc (R333), where the next step fetches it (log 10). -/
def State.withFetchWord (s : State) (nbits w : Nat) : State := s.placeAtPc (tableBytes nbits w)

end Sys2Proof.Machine
end

