-- ==== Sys2Proof/Machine/Kind.lean ====
section
/-! DEFINITION. Which of the four outcomes of 00_scope.md R11 each instruction has. -/

namespace Sys2Proof.Machine

/-- The outcome of a form with a type tag: refused under Float (30_encoding.md R111). -/
def tagKind (t : TypeTag) : StepKind :=
  match t with
  | .byte => .delta
  | .word => .delta
  | .long => .delta
  | .float => .refuse

/-- The outcome of an instruction (00_scope.md R11). -/
def kindOf : Instr → StepKind
  | .nop => .delta
  | .hlt => .halt
  | .wfi => .stuck
  | .ret => .delta
  | .rfi => .refuse
  | .irq => .refuse
  | .nmi => .refuse
  | .andsReg _ => .delta
  | .orsReg _ => .delta
  | .xorsReg _ => .delta
  | .andsImm _ => .delta
  | .orsImm _ => .delta
  | .xorsImm _ => .delta
  | .lodDirect t _ _ => tagKind t
  | .lodIndexed t _ _ _ => tagKind t
  | .stoDirect t _ _ => tagKind t
  | .stoIndexed t _ _ _ => tagKind t
  | .movReg t _ _ => tagKind t
  | .movImm t _ _ => tagKind t
  | .swp t _ _ => tagKind t
  | .psh t _ => tagKind t
  | .pop t _ => tagKind t
  | .jmp _ => .delta
  | .jmpl _ => .delta
  | .jsr _ => .delta
  | .jsrl _ => .delta
  | .jmpa _ => .delta
  | .jmpal _ => .delta
  | .jsra _ => .delta
  | .jsral _ => .delta
  | .bcc _ => .delta
  | .bhc _ => .delta
  | .bfc _ => .delta
  | .btc _ => .delta
  | .bic _ => .delta
  | .bvc _ => .delta
  | .bzc _ => .delta
  | .bsc _ => .delta
  | .bcs _ => .delta
  | .bhs _ => .delta
  | .bfs _ => .delta
  | .bts _ => .delta
  | .bis _ => .delta
  | .bvs _ => .delta
  | .bzs _ => .delta
  | .bss _ => .delta
  | .addReg t _ _ => tagKind t
  | .addImm t _ _ => tagKind t
  | .adcReg t _ _ => tagKind t
  | .adcImm t _ _ => tagKind t
  | .subReg t _ _ => tagKind t
  | .subImm t _ _ => tagKind t
  | .sbcReg t _ _ => tagKind t
  | .sbcImm t _ _ => tagKind t
  | .cmpReg t _ _ => tagKind t
  | .cmpImm t _ _ => tagKind t
  | .andReg t _ _ => tagKind t
  | .andImm t _ _ => tagKind t
  | .orReg t _ _ => tagKind t
  | .orImm t _ _ => tagKind t
  | .xorReg t _ _ => tagKind t
  | .xorImm t _ _ => tagKind t
  | .mulReg t _ _ => tagKind t
  | .mulImm t _ _ => tagKind t
  | .divReg t _ _ => tagKind t
  | .divImm t _ _ => tagKind t
  | .modReg t _ _ => tagKind t
  | .modImm t _ _ => tagKind t
  | .powReg t _ _ => tagKind t
  | .powImm t _ _ => tagKind t
  | .minReg t _ _ => tagKind t
  | .minImm t _ _ => tagKind t
  | .maxReg t _ _ => tagKind t
  | .maxImm t _ _ => tagKind t
  | .inc t _ => tagKind t
  | .dec t _ => tagKind t
  | .tst t _ => tagKind t
  | .com t _ => tagKind t
  | .neg t _ => tagKind t
  | .abs t _ => tagKind t
  | .sxt t _ => tagKind t
  | .zxt t _ => tagKind t
  | .shl t _ => tagKind t
  | .shr t _ => tagKind t
  | .rol t _ => tagKind t
  | .ror t _ => tagKind t
  | .unassigned07 => .stuck
  | .unassigned0B => .stuck
  | .unassigned0F => .stuck
  | .unassigned18 _ => .stuck
  | .unassigned28 _ => .stuck
  | .unassigned38 _ => .stuck
  | .unassigned44 _ => .stuck
  | .unassigned48 _ => .stuck
  | .unassigned58 _ => .stuck
  | .unassignedFC _ => .stuck

end Sys2Proof.Machine
end

