-- ==== Sys2Proof/Safety.lean ====
section
/-! DEFINITION. What a run is and how it stands (70_reset_and_hazards.md R343): the outcome of the next step, the end of a
run, and a hang. -/

namespace Sys2Proof.Safety

open Sys2Proof.Machine

/-- The outcome of the next step (00_scope.md R11). -/
def kind (s : State) : StepKind := kindOf (decode s.window)

/-- An HLT opcode stands at pc: the run is over (R343). -/
def Halted (s : State) : Prop := kind s = .halt

/-- WFI or an unassigned byte stands at pc: a hang, "not an end" (R343). -/
def Hung (s : State) : Prop := kind s = .stuck

/-- The next step is refused, "which is not an end either" (R343). -/
def Refused (s : State) : Prop := kind s = .refuse

/-- The next step applies a Delta. -/
def Runs (s : State) : Prop := kind s = .delta

/-- A run from `s` ends in `t`: after some steps a state is reached that an HLT is decoded in (R343). -/
def Ends (s t : State) : Prop := ∃ n, Sys2Proof.core.run n s = .next t ∧ Halted t

end Sys2Proof.Safety
end

