-- ==== Sys2Proof/Certificates/Slice0/Obligations.lean ====
section
/-! DEFINITION. The statements for the provers. First the words they are stated in, which say with numbers and single bits
what the spec says, apart from the functions the meanings are written with; then one definition for each statement. A
statement whose docstring names a decision D<n> rests on a choice the spec marks as its own (92_eei_decisions.md); one that
names a log entry rests on the model's choice. -/

namespace Sys2Proof.Claims

open Sys2Proof.Machine

/-! ### Registers, flags and numbers -/

/-- The physical register of a view index modulo 4 (10_state.md R22). -/
def physical (n : Nat) : Reg :=
  match n with
  | 0 => .a
  | 1 => .b
  | 2 => .c
  | _ => .d

/-- Where the table of R22 puts a view of a general register: the register and the lowest of its bits. -/
def spot (i : ViewIdx) (w : Width) : Option (Reg × Nat) :=
  if i.toNat < 4 then some (physical i.toNat, 0)
  else if i.toNat < 8 then
    match w with
    | .byte => some (physical (i.toNat - 4), 8)
    | .word => some (physical (i.toNat - 4), 16)
    | .long => none
  else none

/-- The general registers after `R(i, T) <- v`: the view's bits are those of the value, every other bit is as before. -/
def RegsWritten (x y : Arch) (w : Width) (i : ViewIdx) (v : Word) : Prop :=
  ∀ (q : Reg) (k : Nat), k < 32 →
    (y.reg q).getLsbD k =
      match spot i w with
      | some (r, lo) => if r = q ∧ lo ≤ k ∧ k < lo + w.bits then v.getLsbD (k - lo) else (x.reg q).getLsbD k
      | none => (x.reg q).getLsbD k

/-- No general register changes. -/
def RegsSame (x y : Arch) : Prop := ∀ q : Reg, y.reg q = x.reg q

/-- No float register changes. -/
def FloatsSame (x y : Arch) : Prop := y.f0 = x.f0 ∧ y.f1 = x.f1 ∧ y.f2 = x.f2 ∧ y.f3 = x.f3

/-- Every byte of memory reads as before. -/
def MemSame (s t : State) : Prop := ∀ x : Word, t.mem.byte x = s.mem.byte x

/-- Every byte of memory reads as before but the `n` bytes from `a` on that lie inside Memory, which are those of `v`. -/
def MemStored (s t : State) (a : Word) (n : Nat) (v : Word) : Prop :=
  ∀ x : Word, t.mem.byte x =
    if (x - a).toNat < n ∧ x.toNat < s.mem.size then BitVec.ofNat 8 (v.toNat / 256 ^ (x - a).toNat)
    else s.mem.byte x

/-- The parameters of the platform do not change. -/
def PlatformSame (s t : State) : Prop := t.mem.size = s.mem.size ∧ t.modSign = s.modSign

/-- What every instruction leaves alone. -/
def Untouched (s t : State) : Prop := FloatsSame s.arch t.arch ∧ PlatformSame s t

/-- The number of the `n` bytes from `a` on, lowest address least significant. -/
def bytesNumber (m : Memory) (a : Word) : Nat → Nat
  | 0 => 0
  | n + 1 => bytesNumber m a n + (m.byte (a + BitVec.ofNat 32 n)).toNat * 256 ^ n

/-- The two's-complement reading of a value of a width (00_scope.md R7). -/
def signedOf (w : Width) (v : Word) : Int :=
  if v.toNat < 2 ^ (w.bits - 1) then v.toNat else (v.toNat : Int) - 2 ^ w.bits

/-- The top bit of a width. -/
def topBit (w : Width) (v : Word) : Bool := decide (2 ^ (w.bits - 1) ≤ v.toNat)

/-- The number of a type tag in an opcode (R8). -/
def tagNumber : TypeTag → Nat
  | .byte => 0
  | .word => 1
  | .long => 2
  | .float => 3

/-- The `n` low bytes of a number, least significant first. -/
def lowBytes (n v : Nat) : List Byte := (List.range n).map fun k => BitVec.ofNat 8 (v / 256 ^ k)

/-! ### Arithmetic instructions -/

/-- What every arithmetic instruction leaves behind (43_alu_binary.md R220, R222; 44_alu_unary.md R270): the result in the
view (or, for CMP and TST, no register changed), S and Z of the result, every flag not named as before, pc past the
instruction, and all else as before. -/
def AluNext (s t : State) (w : Width) (d : ViewIdx) (stores : Bool) (r : Word) (len : Nat) (named : List Flag) : Prop :=
  r.toNat < 2 ^ w.bits ∧
  (if stores then RegsWritten s.arch t.arch w d r else RegsSame s.arch t.arch) ∧
  readFlag t.arch.sb .s = topBit w r ∧
  readFlag t.arch.sb .z = decide (r.toNat = 0) ∧
  (∀ g : Flag, g ≠ .s → g ≠ .z → g ∉ named → readFlag t.arch.sb g = readFlag s.arch.sb g) ∧
  t.arch.pc = s.arch.pc + BitVec.ofNat 32 len ∧
  t.arch.sp = s.arch.sp ∧
  MemSame s t ∧
  Untouched s t

/-- What a rule says of the values, the result and the flags of a binary operation. -/
abbrev ValueRule := State → Width → Word → Word → Word → (Flag → Bool) → Prop

/-- A binary operation in both its forms, at every width and of every operand: it completes as `rule` says. -/
def BinaryRule (reg : TypeTag → ViewIdx → ViewIdx → Instr) (imm : TypeTag → ViewIdx → Word → Instr) (stores : Bool)
    (named : List Flag) (rule : ValueRule) : Prop :=
  ∀ (s : State) (w : Width) (d : ViewIdx),
    (∀ q : ViewIdx, ∃ t r, exec (reg w.tag d q) s = .next t ∧ AluNext s t w d stores r 2 named ∧
      rule s w (s.arch.read .plain w d) (s.arch.read .plain w q) r (readFlag t.arch.sb)) ∧
    (∀ v : Word, v.toNat < 2 ^ w.bits →
      ∃ t r, exec (imm w.tag d v) s = .next t ∧ AluNext s t w d stores r (2 + w.bytes) named ∧
        rule s w (s.arch.read .plain w d) v r (readFlag t.arch.sb))

/-- A unary operation at every width and of every register: it completes as `rule` says. -/
def UnaryRule (op : TypeTag → ViewIdx → Instr) (stores : Bool) (named : List Flag)
    (rule : Width → Word → Word → (Flag → Bool) → Prop) : Prop :=
  ∀ (s : State) (w : Width) (d : ViewIdx),
    ∃ t r, exec (op w.tag d) s = .next t ∧ AluNext s t w d stores r 2 named ∧
      rule w (s.arch.read .plain w d) r (readFlag t.arch.sb)

/-- What status-byte logic leaves behind (40_control.md R137): each bit of sb as told, pc past 2 bytes, all else as before. -/
def StatusNext (s t : State) (bit : Nat → Bool) : Prop :=
  (∀ k, k < 8 → t.arch.sb.getLsbD k = bit k) ∧ t.arch.pc.toNat = (s.arch.pc.toNat + 2) % 2 ^ 32 ∧
  t.arch.sp = s.arch.sp ∧ RegsSame s.arch t.arch ∧ MemSame s t ∧ Untouched s t

/-- What a move of a value leaves behind (41_data_move.md R156, R157, R161). -/
def MoveNext (s t : State) (w : Width) (d : ViewIdx) (v : Word) (len : Nat) : Prop :=
  RegsWritten s.arch t.arch w d v ∧ t.arch.sb = (if d = 8 then BitVec.ofNat 8 v.toNat else s.arch.sb) ∧
  t.arch.pc.toNat = (s.arch.pc.toNat + len) % 2 ^ 32 ∧ t.arch.sp = s.arch.sp ∧ MemSame s t ∧ Untouched s t

/-- The bytes of a binary operation's two forms, as numbers (30_encoding.md R93, R95, R96, R102). -/
def BinaryBytes (base : Nat) (reg : TypeTag → ViewIdx → ViewIdx → Instr) (imm : TypeTag → ViewIdx → Word → Instr) :
    Prop :=
  (∀ t d q, encode (reg t d q) = [BitVec.ofNat 8 (base + tagNumber t), BitVec.ofNat 8 (16 * q.toNat + d.toNat)]) ∧
  (∀ t d v, encode (imm t d v) =
    BitVec.ofNat 8 (base + 4 + tagNumber t) :: BitVec.ofNat 8 d.toNat :: lowBytes t.bytes v.toNat)

/-- The bytes of a unary operation, as numbers (R94, R95, R103). -/
def UnaryBytes (opcode : Nat) (op : TypeTag → ViewIdx → Instr) : Prop :=
  ∀ t d, encode (op t d) = [BitVec.ofNat 8 opcode, BitVec.ofNat 8 (16 * tagNumber t + d.toNat)]

/-- The bytes of a short transfer: the opcode and its 16-bit field (R95, R97). -/
def ShortBytes (opcode : Nat) (op : Half → Instr) : Prop :=
  ∀ f, encode (op f) = BitVec.ofNat 8 opcode :: lowBytes 2 f.toNat

/-- The bytes of a long transfer: the opcode and its 32-bit field (R95, R97). -/
def LongBytes (opcode : Nat) (op : Word → Instr) : Prop :=
  ∀ f, encode (op f) = BitVec.ofNat 8 opcode :: lowBytes 4 f.toNat

/-! ### Instructions by what they do -/

/-- The instructions that write the whole status byte (10_state.md R31): ANDS, ORS, XORS, and MOV and POP to index 8. -/
def writesWholeStatus : Instr → Bool
  | .andsReg _ | .orsReg _ | .xorsReg _ | .andsImm _ | .orsImm _ | .xorsImm _ => true
  | .movReg _ d _ | .movImm _ d _ | .pop _ d => decide (d = 8)
  | _ => false

/-- The instructions that may clear T (60_exceptions.md R301): ANDS, XORS, and MOV and POP to index 8. -/
def mayClearTrap : Instr → Bool
  | .andsReg _ | .xorsReg _ | .andsImm _ | .xorsImm _ => true
  | .movReg _ d _ | .movImm _ d _ | .pop _ d => decide (d = 8)
  | _ => false

/-- Whether an instruction divides by zero in a state: DIV or MOD whose second operand is 0 at its width (R301). -/
def dividesByZero (i : Instr) (s : State) : Bool :=
  match i with
  | .divReg t _ q | .modReg t _ q =>
    match t.width? with
    | some w => decide (s.arch.read .plain w q = 0)
    | none => false
  | .divImm t _ v | .modImm t _ v => decide (v.toNat % 2 ^ (8 * t.bytes) = 0)
  | _ => false

/-- The bytes a stack form moves: one for the status byte, else n(T) (41_data_move.md R161). -/
def stackBytes (t : TypeTag) (d : ViewIdx) : Nat := if d = 8 then 1 else t.bytes

/-- How far an instruction moves sp (10_state.md R26). -/
def spMove : Instr → Word
  | .psh t d => -BitVec.ofNat 32 (stackBytes t d)
  | .pop t d => BitVec.ofNat 32 (stackBytes t d)
  | .jsr _ | .jsrl _ | .jsra _ | .jsral _ => -4
  | .ret => 4
  | _ => 0

/-- The instructions that produce a deferred write (10_state.md R35). -/
def writesMemory : Instr → Bool
  | .stoDirect _ _ _ | .stoIndexed _ _ _ _ | .psh _ _ | .jsr _ | .jsrl _ | .jsra _ | .jsral _ => true
  | _ => false

/-- The instructions that transfer control (10_state.md R25): jumps, calls, branches and RET. -/
def transfersControl : Instr → Bool
  | .ret | .jmp _ | .jmpl _ | .jsr _ | .jsrl _ | .jmpa _ | .jmpal _ | .jsra _ | .jsral _ => true
  | .bcc _ | .bhc _ | .bfc _ | .btc _ | .bic _ | .bvc _ | .bzc _ | .bsc _ => true
  | .bcs _ | .bhs _ | .bfs _ | .bts _ | .bis _ | .bvs _ | .bzs _ | .bss _ => true
  | _ => false

/-- The sixteen branches with the number of the flag bit each tests and the value it wants (R101, R191 to R206). -/
def branches : List ((Half → Instr) × Nat × Bool) :=
  [(.bcc, 0, false), (.bhc, 1, false), (.bfc, 2, false), (.btc, 3, false), (.bic, 4, false), (.bvc, 5, false),
   (.bzc, 6, false), (.bsc, 7, false), (.bcs, 0, true), (.bhs, 1, true), (.bfs, 2, true), (.bts, 3, true),
   (.bis, 4, true), (.bvs, 5, true), (.bzs, 6, true), (.bss, 7, true)]

/-- The unassigned instructions (30_encoding.md R110). -/
def isUnassigned : Instr → Bool
  | .unassigned07 | .unassigned0B | .unassigned0F | .unassigned18 _ | .unassigned28 _ => true
  | .unassigned38 _ | .unassigned44 _ | .unassigned48 _ | .unassigned58 _ | .unassignedFC _ => true
  | _ => false

/-- An opcode byte R110 lists as unassigned. -/
def unassignedOpcode (n : Nat) : Bool :=
  n == 0x07 || n == 0x0B || n == 0x0F || (0x18 ≤ n && n ≤ 0x1F) || (0x28 ≤ n && n ≤ 0x2F) ||
  (0x38 ≤ n && n ≤ 0x3F) || (0x44 ≤ n && n ≤ 0x4F) || (0x58 ≤ n && n ≤ 0x5F) || 0xFC ≤ n

/-- An assigned data-move or binary opcode byte (R99, R102) whose type tag, bits 1:0, is Float (R111). -/
def floatOpcode (n : Nat) : Bool :=
  n % 4 == 3 && !unassignedOpcode n && ((0x10 ≤ n && n ≤ 0x5F) || (0x80 ≤ n && n ≤ 0xEF))

/-- The opcode bytes whose operand byte has an ignored high nibble (R112): SR, RI, R1 and direct M forms. -/
def ignoresHighNibble (n : Nat) : Bool :=
  (0x08 ≤ n && n ≤ 0x0A) || (0x10 ≤ n && n ≤ 0x13) || (0x20 ≤ n && n ≤ 0x23) || (0x34 ≤ n && n ≤ 0x37) ||
  (0x50 ≤ n && n ≤ 0x57) || (0x80 ≤ n && n ≤ 0xEF && n / 4 % 2 == 1)

/-- Six bytes with the bits R112 calls ignored cleared. -/
def clearIgnored (w : Window) : Window :=
  let n := w.b0.toNat
  if ignoresHighNibble n then { w with b1 := w.b1 &&& 0x0F }
  else if 0xF0 ≤ n && n ≤ 0xFB then { w with b1 := w.b1 &&& 0x3F }
  else if 0x60 ≤ n && n ≤ 0x6F then { w with b0 := w.b0 &&& 0xF7 }
  else w

/-- The six bytes as a list, lowest address first. -/
def windowBytes (w : Window) : List Byte := [w.b0, w.b1, w.b2, w.b3, w.b4, w.b5]

/-- States alike in all but the float registers. -/
def AlikeButFloats (s u : State) : Prop :=
  ∃ f0 f1 f2 f3 : Half, u = { s with arch := { s.arch with f0 := f0, f1 := f1, f2 := f2, f3 := f3 } }

end Sys2Proof.Claims

open Sys2Proof Sys2Proof.Machine Sys2Proof.Claims

/-! ## Encoding -/

/-- Every well-formed instruction is read back from its bytes, whatever follows them (30_encoding.md R90, R95 to R104). The
byte assignments are the spec's decisions D2 to D8 and D11; the zero of the ignored bits is the model's choice (log 14),
as is the zero immediate of a Float-tagged form (log 8). -/
def Obligations.EncodedInstructionsDecodeBack : Prop :=
  ∀ (i : Instr) (rest : List Byte), i.wf = true → decodeStream (encode i ++ rest) = .ok (i, rest)

/-- The other way round: what is decoded encodes to the bytes it was read from, ignored bits cleared (R112, R115; D2 to D8,
D11; log 8, log 14). -/
def Obligations.DecodedBytesEncodeBack : Prop :=
  ∀ w : Window, encode (decode w) = (windowBytes (clearIgnored w)).take (decode w).length

/-- Words the spec writes out: E1, and one word of each other family of 95_test_vectors.md (D2 to D8, D11). -/
def Obligations.SpecWordsDecode : Prop :=
  decodeStream [0x84, 0x00, 0x21] = .ok (.addImm .byte 0 0x21, []) ∧
  decodeStream [0x0C, 0xF7] = .ok (.andsImm 0xF7, []) ∧
  decodeStream [0x15, 0x24, 0xFC, 0x0F] = .ok (.lodIndexed .word 4 2 0x0FFC, []) ∧
  decodeStream [0x36, 0x08, 0x78, 0x56, 0x34, 0x12] = .ok (.movImm .long 8 0x12345678, []) ∧
  decodeStream [0x67, 0x00, 0x00, 0x02, 0x00] = .ok (.jsral 0x00020000, []) ∧
  decodeStream [0x76, 0xFB, 0xFF] = .ok (.bzc 0xFFFB, []) ∧
  decodeStream [0xFB, 0x10] = .ok (.ror .word 0, []) ∧
  decodeStream [0x44] = .ok (.unassigned44 0, []) ∧
  decodeStream [0x84, 0x00] = .error .truncated

/-- The decoder gives only well-formed instructions: an immediate fits the n(T) bytes of its type tag (R96, R115). That the
immediate of a Float-tagged word is zero is the model's choice (log 8): the spec gives it no width (43_alu_binary.md R225). -/
def Obligations.DecodedInstructionsAreWellFormed : Prop :=
  ∀ w : Window, (decode w).wf = true

/-- The bits R112 calls ignored never change what is decoded (D4, D11). -/
def Obligations.IgnoredBitsChangeNothing : Prop :=
  ∀ w v : Window, clearIgnored w = clearIgnored v → decode w = decode v

/-- The outcome each opcode byte has, over all 256 (R98 to R104, R110, R111): HALT, STUCK, REFUSE or a Delta; a unary opcode
is refused where its operand byte carries Float (D2, D3, D6, D8, D11, D15 to D19). -/
def Obligations.OpcodeMapFixesTheOutcome : Prop :=
  ∀ w : Window, kindOf (decode w) =
    (let n := w.b0.toNat
     if n = 1 then .halt
     else if n = 2 ∨ unassignedOpcode n = true then .stuck
     else if n = 4 ∨ n = 5 ∨ n = 6 ∨ floatOpcode n = true ∨ (0xF0 ≤ n ∧ w.b1.toNat / 16 % 4 = 3) then .refuse
     else .delta)

/-- The operand byte of the unary forms (R94): "operand type taken from bits 4–5 of the following operand byte, register from
bits 0–3", whatever bits 7:6 hold. -/
def Obligations.UnaryOperandByteFields : Prop :=
  ∀ op ∈ [Instr.inc, Instr.dec, Instr.tst, Instr.com, Instr.neg, Instr.abs, Instr.sxt, Instr.zxt, Instr.shl, Instr.shr,
      Instr.rol, Instr.ror],
    ∀ (w : Window) (t : TypeTag) (d : ViewIdx), decode w = op t d →
      tagNumber t = w.b1.toNat / 16 % 4 ∧ d.toNat = w.b1.toNat % 16 ∧
      ∀ high : BitVec 2, decode { w with b1 := high ++ w.b1.extractLsb' 0 6 } = op t d

/-- The bytes of the arithmetic groups (R95, R102, R103; D2, D3, D4, D5). The model's choices: the zero high nibble of every
immediate form and the zero bits 7:6 of every unary byte, which the spec ignores (log 14), and a Float-tagged immediate form
with no immediate byte (log 8). -/
def Obligations.EncodedBytesOfArithmetic : Prop :=
  BinaryBytes 0x80 .addReg .addImm ∧ BinaryBytes 0x88 .adcReg .adcImm ∧ BinaryBytes 0x90 .subReg .subImm ∧
  BinaryBytes 0x98 .sbcReg .sbcImm ∧ BinaryBytes 0xA0 .cmpReg .cmpImm ∧ BinaryBytes 0xA8 .andReg .andImm ∧
  BinaryBytes 0xB0 .orReg .orImm ∧ BinaryBytes 0xB8 .xorReg .xorImm ∧ BinaryBytes 0xC0 .mulReg .mulImm ∧
  BinaryBytes 0xC8 .divReg .divImm ∧ BinaryBytes 0xD0 .modReg .modImm ∧ BinaryBytes 0xD8 .powReg .powImm ∧
  BinaryBytes 0xE0 .minReg .minImm ∧ BinaryBytes 0xE8 .maxReg .maxImm ∧
  UnaryBytes 0xF0 .inc ∧ UnaryBytes 0xF1 .dec ∧ UnaryBytes 0xF2 .tst ∧ UnaryBytes 0xF3 .com ∧ UnaryBytes 0xF4 .neg ∧
  UnaryBytes 0xF5 .abs ∧ UnaryBytes 0xF6 .sxt ∧ UnaryBytes 0xF7 .zxt ∧ UnaryBytes 0xF8 .shl ∧ UnaryBytes 0xF9 .shr ∧
  UnaryBytes 0xFA .rol ∧ UnaryBytes 0xFB .ror

/-- The bytes of the control, data-move and control-transfer groups (R95, R97 to R101; D1, D4 to D8, D11). The model's
choices: the zero high nibble of the SR, R1, RI and direct M forms, which the spec ignores, and the zero in bit 3 of the jump
opcodes (log 14), and a Float-tagged MOV with no immediate byte (log 8). -/
def Obligations.EncodedBytesOfControlMoveAndTransfer : Prop :=
  encode .nop = [0x00] ∧ encode .hlt = [0x01] ∧ encode .wfi = [0x02] ∧ encode .ret = [0x03] ∧
  encode .rfi = [0x04] ∧ encode .irq = [0x05] ∧ encode .nmi = [0x06] ∧
  (∀ d : ViewIdx, encode (.andsReg d) = [0x08, BitVec.ofNat 8 d.toNat] ∧
    encode (.orsReg d) = [0x09, BitVec.ofNat 8 d.toNat] ∧ encode (.xorsReg d) = [0x0A, BitVec.ofNat 8 d.toNat]) ∧
  (∀ v : Byte, encode (.andsImm v) = [0x0C, v] ∧ encode (.orsImm v) = [0x0D, v] ∧ encode (.xorsImm v) = [0x0E, v]) ∧
  (∀ (t : TypeTag) (d o : ViewIdx) (f : Half),
    encode (.lodDirect t d f) = BitVec.ofNat 8 (0x10 + tagNumber t) :: BitVec.ofNat 8 d.toNat :: lowBytes 2 f.toNat ∧
    encode (.lodIndexed t d o f) =
      BitVec.ofNat 8 (0x14 + tagNumber t) :: BitVec.ofNat 8 (16 * o.toNat + d.toNat) :: lowBytes 2 f.toNat ∧
    encode (.stoDirect t d f) = BitVec.ofNat 8 (0x20 + tagNumber t) :: BitVec.ofNat 8 d.toNat :: lowBytes 2 f.toNat ∧
    encode (.stoIndexed t d o f) =
      BitVec.ofNat 8 (0x24 + tagNumber t) :: BitVec.ofNat 8 (16 * o.toNat + d.toNat) :: lowBytes 2 f.toNat) ∧
  (∀ (t : TypeTag) (d q : ViewIdx) (v : Word),
    encode (.movReg t d q) = [BitVec.ofNat 8 (0x30 + tagNumber t), BitVec.ofNat 8 (16 * q.toNat + d.toNat)] ∧
    encode (.movImm t d v) =
      BitVec.ofNat 8 (0x34 + tagNumber t) :: BitVec.ofNat 8 d.toNat :: lowBytes t.bytes v.toNat ∧
    encode (.swp t d q) = [BitVec.ofNat 8 (0x40 + tagNumber t), BitVec.ofNat 8 (16 * q.toNat + d.toNat)] ∧
    encode (.psh t d) = [BitVec.ofNat 8 (0x50 + tagNumber t), BitVec.ofNat 8 d.toNat] ∧
    encode (.pop t d) = [BitVec.ofNat 8 (0x54 + tagNumber t), BitVec.ofNat 8 d.toNat]) ∧
  ShortBytes 0x60 .jmp ∧ LongBytes 0x61 .jmpl ∧ ShortBytes 0x62 .jsr ∧ LongBytes 0x63 .jsrl ∧
  ShortBytes 0x64 .jmpa ∧ LongBytes 0x65 .jmpal ∧ ShortBytes 0x66 .jsra ∧ LongBytes 0x67 .jsral ∧
  (∀ p ∈ branches, ShortBytes (0x70 + p.2.1 + if p.2.2 then 8 else 0) p.1)

/-! ## The step -/

/-- When the bytes at pc are those of a well-formed instruction, the step is that instruction's (R91, R92; 70 R340). -/
def Obligations.StepRunsTheEncodedInstruction : Prop :=
  ∀ (s : State) (i : Instr), i.wf = true →
    (∀ k, k < i.length → s.mem.byte (s.arch.pc + BitVec.ofNat 32 k) = (encode i).getD k 0) →
    step s = exec i s

/-- The four outcomes of 00_scope.md R11 for every instruction in every state: a Delta gives a next state, HALT and STUCK the
state itself, REFUSE a refusal, and nothing ever faults (R115, R300; D15 to D19; log 6, log 7). -/
def Obligations.OutcomesOfAnInstruction : Prop :=
  ∀ (i : Instr) (s : State),
    match kindOf i with
    | .delta => ∃ t, exec i s = .next t
    | .halt => exec i s = .next s
    | .stuck => exec i s = .next s
    | .refuse => ∃ e, exec i s = .refused e

/-- HLT, WFI and every unassigned byte complete with the state unchanged, and a core that goes on ticking there changes
nothing at any later step (40 R131, R132, R143; 41 R162; 44 R284; R110, R343; C7, D15, D16, D19; log 6). -/
def Obligations.HaltAndStuckKeepTheState : Prop :=
  (∀ s : State, exec .hlt s = .next s ∧ exec .wfi s = .next s) ∧
  (∀ (i : Instr) (s : State), isUnassigned i = true → exec i s = .next s) ∧
  (∀ (n : Nat) (s : State), Safety.Halted s ∨ Safety.Hung s → core.run n s = .next s)

/-- RFI, IRQ, NMI and every form whose type tag is Float stop with a refusal of their own name (40 R134 to R136; R111, R150,
R225, R271; D17, D18; log 7). -/
def Obligations.RefusedForms : Prop :=
  ∀ s : State,
    exec .rfi s = .refused .returnFromInterrupt ∧ exec .irq s = .refused .interruptRequest ∧
    exec .nmi s = .refused .nonMaskableInterrupt ∧
    (∀ (d q : ViewIdx) (f : Half) (v : Word),
      ∀ i ∈ [Instr.lodDirect .float d f, .lodIndexed .float d q f, .stoDirect .float d f, .stoIndexed .float d q f,
          .movReg .float d q, .movImm .float d v, .swp .float d q, .psh .float d, .pop .float d],
        exec i s = .refused .floatDataMove) ∧
    (∀ (d q : ViewIdx) (v : Word),
      ∀ i ∈ [Instr.addReg .float d q, .adcReg .float d q, .subReg .float d q, .sbcReg .float d q, .cmpReg .float d q,
          .andReg .float d q, .orReg .float d q, .xorReg .float d q, .mulReg .float d q, .divReg .float d q,
          .modReg .float d q, .powReg .float d q, .minReg .float d q, .maxReg .float d q,
          .addImm .float d v, .adcImm .float d v, .subImm .float d v, .sbcImm .float d v, .cmpImm .float d v,
          .andImm .float d v, .orImm .float d v, .xorImm .float d v, .mulImm .float d v, .divImm .float d v,
          .modImm .float d v, .powImm .float d v, .minImm .float d v, .maxImm .float d v],
        exec i s = .refused .floatBinop) ∧
    (∀ d : ViewIdx,
      ∀ i ∈ [Instr.inc .float d, .dec .float d, .tst .float d, .com .float d, .neg .float d, .abs .float d,
          .sxt .float d, .zxt .float d, .shl .float d, .shr .float d, .rol .float d, .ror .float d],
        exec i s = .refused .floatUnop)

/-- pc after a Delta that transfers no control is pc plus the instruction's length, modulo 2^32 (10 R25; D30). -/
def Obligations.SequentialInstructionsAdvancePc : Prop :=
  ∀ (i : Instr) (s t : State), kindOf i = .delta → transfersControl i = false → exec i s = .next t →
    t.arch.pc.toNat = (s.arch.pc.toNat + i.length) % 2 ^ 32

/-! ## Memory -/

/-- Every step keeps memory canonical: rising addresses, nothing outside Memory, nothing listed that need not be, and a size R61
allows. -/
def Obligations.StepKeepsMemoryCanonical : Prop :=
  ∀ s t : State, s.mem.wf = true → step s = .next t → t.mem.wf = true

/-- Construction installs the host's parameters (10 R37, 70 R330; D34) and leaves memory canonical with nothing loaded: inside
Memory a byte reads the model's unwritten byte (log 4). In every memory a byte outside reads 0xFF (R61, R303), so a core
whose pc lies outside decodes an unassigned opcode and is stuck (R303, R343; D19, D31; log 6). The parameters `State.reset`
is constructed with are the model's choice (logs 1 to 5). -/
def Obligations.ConstructedMemoryIsCanonical : Prop :=
  State.reset = State.construct Config.start ∧ State.reset.mem.wf = true ∧
  (∀ p : Config.Init, 1 ≤ p.memSize → p.memSize ≤ 2 ^ 32 →
    (State.construct p).arch =
      { pc := p.pc, sp := p.sp, sb := p.sb, a := p.a, b := p.b, c := p.c, d := p.d,
        f0 := p.f0, f1 := p.f1, f2 := p.f2, f3 := p.f3 } ∧
    (State.construct p).mem.size = p.memSize ∧ (State.construct p).modSign = p.modSign ∧
    (State.construct p).mem.wf = true ∧
    (∀ x : Word, (State.construct p).mem.byte x = if x.toNat < p.memSize then 0x00 else 0xFF)) ∧
  (∀ (m : Memory) (x : Word), m.size ≤ x.toNat → m.byte x = 0xFF) ∧
  (∀ s : State, s.mem.size ≤ s.arch.pc.toNat → Safety.Hung s ∧ step s = .next s)

/-- Canonical memories of one size that read alike at every address are equal data. -/
def Obligations.CanonicalMemoryIsItsBytes : Prop :=
  ∀ m n : Memory, m.wf = true → n.wf = true → m.size = n.size → (∀ x : Word, m.byte x = n.byte x) → m = n

/-- Little-endian data and instruction fields (20 R64): a long stored inside Memory reads back whole, as a word at a and at
a + 2, and as a byte at each address; and the multi-byte fields of an instruction are read the same way. -/
def Obligations.MixedWidthAccessesSeeTheSameBytes : Prop :=
  (∀ (m : Memory) (a v : Word), (∀ k, k < 4 → (a + BitVec.ofNat 32 k).toNat < m.size) →
    (m.write .long a v).read .long a = v ∧
    ((m.write .long a v).read .word a).toNat = v.toNat % 2 ^ 16 ∧
    ((m.write .long a v).read .word (a + 2)).toNat = v.toNat / 2 ^ 16 ∧
    ∀ k, k < 4 → ((m.write .long a v).read .byte (a + BitVec.ofNat 32 k)).toNat = v.toNat / 256 ^ k % 256) ∧
  (∀ s : State,
    s.window.half1.toNat = (s.mem.read .word (s.arch.pc + 1)).toNat ∧
    s.window.half2.toNat = (s.mem.read .word (s.arch.pc + 2)).toNat ∧
    s.window.word1 = s.mem.read .long (s.arch.pc + 1) ∧
    ∀ w : Width, s.window.tag = w.tag → s.window.imm = s.mem.read w (s.arch.pc + 2))

/-- Only STO, PSH and the four call forms change a byte of memory (10 R35, 20 R66, R76). -/
def Obligations.OnlyStoresPushesAndCallsWriteMemory : Prop :=
  ∀ (i : Instr) (s t : State), exec i s = .next t → writesMemory i = false → MemSame s t

/-- Every instruction that writes memory is seen by the next fetch: STO in both forms, PSH and the four calls complete, and of
the six bytes at the pc they leave, each that the write covers inside Memory is the written one, every other what stood there
before (20 R70, R74, 70 R342; D33). -/
def Obligations.NextFetchSeesTheStore : Prop :=
  ∀ (s : State) (w : Width) (d o : ViewIdx) (f : Half) (g : Word),
    ∀ p ∈ [
        (Instr.stoDirect w.tag d f, s.arch.pc + 4, s.arch.directAddr f, w.bytes, s.arch.read .plain w d),
        (Instr.stoIndexed w.tag d o f, s.arch.pc + 4, s.arch.indexedAddr f o, w.bytes, s.arch.read .plain w d),
        (Instr.psh w.tag d, s.arch.pc + 2, s.arch.spBelow (stackWidth w d), stackBytes w.tag d,
          if d = 8 then s.arch.sb.setWidth 32 else s.arch.read .sbCapable w d),
        (Instr.jsr f, s.arch.pc + 3 + f.signExtend 32, s.arch.spBelow .long, 4, s.arch.pc + 3),
        (Instr.jsrl g, s.arch.pc + 5 + g, s.arch.spBelow .long, 4, s.arch.pc + 5),
        (Instr.jsra f, f.setWidth 32, s.arch.spBelow .long, 4, s.arch.pc + 3),
        (Instr.jsral g, g, s.arch.spBelow .long, 4, s.arch.pc + 5)],
      ∃ t, exec p.1 s = .next t ∧ t.arch.pc = p.2.1 ∧
        ∀ k, k < 6 →
          (windowBytes t.window).getD k 0 =
            (let x := p.2.1 + BitVec.ofNat 32 k
             let off := (x - p.2.2.1).toNat
             if off < p.2.2.2.1 ∧ x.toNat < s.mem.size then BitVec.ofNat 8 (p.2.2.2.2.toNat / 256 ^ off)
             else s.mem.byte x)

/-! ## Whole-machine rules -/

/-- No step changes a float register, MEM_SIZE or MOD_SIGN: the float registers "keep their construction value for the whole
run" (10 R27, D18), and the parameters are the platform's (00 R6; logs 3 and 5). -/
def Obligations.StepKeepsFloatsAndPlatform : Prop :=
  ∀ s t : State, step s = .next t → FloatsSame s.arch t.arch ∧ PlatformSame s t

/-- No instruction reads a float register (10 R27, R28; D18): states that differ in them alone step alike and differ in them
alone afterwards. -/
def Obligations.FloatRegistersAreNeverRead : Prop :=
  ∀ s u : State, AlikeButFloats s u →
    match step s, step u with
    | .next t, .next v => AlikeButFloats t v
    | .refused e, .refused f => e = f
    | _, _ => False

/-- sp moves only by PSH, POP, the call forms and RET, and by the amounts R26 gives (10 R26; D10, D14, D30). -/
def Obligations.OnlyStackInstructionsMoveSp : Prop :=
  ∀ (i : Instr) (s t : State), exec i s = .next t → t.arch.sp = s.arch.sp + spMove i

/-- But for the instructions that write the whole status byte, no instruction changes H, F or I, and T changes only by
division by zero, which sets it (10 R31; 43 R235, R236; D20, D23). -/
def Obligations.OnlyDivisionByZeroSetsTrap : Prop :=
  ∀ (i : Instr) (s t : State), exec i s = .next t → writesWholeStatus i = false →
    readFlag t.arch.sb .h = readFlag s.arch.sb .h ∧ readFlag t.arch.sb .f = readFlag s.arch.sb .f ∧
    readFlag t.arch.sb .i = readFlag s.arch.sb .i ∧
    readFlag t.arch.sb .t = (readFlag s.arch.sb .t || dividesByZero i s)

/-! ## Registers and flags -/

/-- What each view index reads at each width, bit by bit (10 R22): a view's own bits, the status byte at index 8 for MOV, PSH
and POP, and 0 everywhere else. -/
def Obligations.ViewsReadTheirBits : Prop :=
  ∀ (x : Arch) (c : ViewClass) (w : Width) (i : ViewIdx) (k : Nat),
    (x.read c w i).getLsbD k =
      (decide (k < w.bits) &&
        match spot i w with
        | some (r, lo) => (x.reg r).getLsbD (lo + k)
        | none => decide (i = 8) && decide (c = .sbCapable) && x.sb.getLsbD k)

/-- What writing each view index changes, bit by bit (10 R24; D28, D29): the view's own bits, or the status byte, or nothing;
pc, sp and the float registers never. -/
def Obligations.ViewsWriteTheirBits : Prop :=
  ∀ (x : Arch) (c : ViewClass) (w : Width) (i : ViewIdx) (v : Word),
    RegsWritten x (x.write c w i v) w i v ∧
    (x.write c w i v).sb = (if i = 8 ∧ c = .sbCapable then BitVec.ofNat 8 v.toNat else x.sb) ∧
    (x.write c w i v).pc = x.pc ∧ (x.write c w i v).sp = x.sp ∧ FloatsSame x (x.write c w i v)

/-- The aliasing the source requires (10 R29): a byte written to AH is lodged at bit position 8 of A, a word at 16. -/
def Obligations.HighViewsLodgeInTheLongRegister : Prop :=
  ∀ (x : Arch) (c : ViewClass) (v : Word),
    ((x.write c .byte 4 v).read c .long 0).toNat / 2 ^ 8 % 2 ^ 8 = v.toNat % 2 ^ 8 ∧
    ((x.write c .word 4 v).read c .long 0).toNat / 2 ^ 16 = v.toNat % 2 ^ 16

/-- The flag primitives (10 R32): reading and writing one bit of sb, and testing a mask; and the number of each flag's bit,
which is the spec's decision D1 (R30; log 15). -/
def Obligations.FlagPrimitives : Prop :=
  (∀ (sb : Byte) (g : Flag), readFlag sb g = decide (sb.toNat / 2 ^ g.bit % 2 = 1)) ∧
  (∀ (sb : Byte) (g : Flag) (b : Bool) (k : Nat),
    (writeFlag sb g b).getLsbD k = if k = g.bit then b else sb.getLsbD k) ∧
  (∀ sb m : Byte, flagsSet sb m = true ↔ ∀ k, k < 8 → m.getLsbD k = true → sb.getLsbD k = true) ∧
  (∀ sb m : Byte, flagsClear sb m = true ↔ ∀ k, k < 8 → m.getLsbD k = true → sb.getLsbD k = false) ∧
  (∀ sb : Byte,
    readFlag sb .c = sb.getLsbD 0 ∧ readFlag sb .h = sb.getLsbD 1 ∧ readFlag sb .f = sb.getLsbD 2 ∧
    readFlag sb .t = sb.getLsbD 3 ∧ readFlag sb .i = sb.getLsbD 4 ∧ readFlag sb .v = sb.getLsbD 5 ∧
    readFlag sb .z = sb.getLsbD 6 ∧ readFlag sb .s = sb.getLsbD 7) ∧
  Flag.c.bit = 0 ∧ Flag.h.bit = 1 ∧ Flag.f.bit = 2 ∧ Flag.t.bit = 3 ∧ Flag.i.bit = 4 ∧ Flag.v.bit = 5 ∧
  Flag.z.bit = 6 ∧ Flag.s.bit = 7

/-! ## Control group -/

/-- NOP advances pc by one and changes nothing else (40 R130; D6). -/
def Obligations.NopOnlyAdvancesPc : Prop :=
  ∀ s : State, ∃ t, exec .nop s = .next t ∧ t.arch.pc.toNat = (s.arch.pc.toNat + 1) % 2 ^ 32 ∧
    t.arch.sp = s.arch.sp ∧ t.arch.sb = s.arch.sb ∧ RegsSame s.arch t.arch ∧ MemSame s t ∧ Untouched s t

/-- ANDS, ORS and XORS in both forms (40 R137 to R142; D6, D7, D45): every bit of sb takes the result, the register form reads
its operand at Byte (index 8 and above as 0), pc moves by 2, and nothing else changes. -/
def Obligations.StatusLogicWritesTheWholeStatus : Prop :=
  ∀ (s : State), ∀ p ∈ [((· && ·), Instr.andsReg, Instr.andsImm), ((· || ·), Instr.orsReg, Instr.orsImm),
      (Bool.xor, Instr.xorsReg, Instr.xorsImm)],
    (∀ d : ViewIdx, ∃ t, exec (p.2.1 d) s = .next t ∧
      StatusNext s t fun k => p.1 (s.arch.sb.getLsbD k) ((s.arch.read .plain .byte d).getLsbD k)) ∧
    (∀ v : Byte, ∃ t, exec (p.2.2 v) s = .next t ∧
      StatusNext s t fun k => p.1 (s.arch.sb.getLsbD k) (v.getLsbD k))

/-- RET takes pc from the four bytes at sp and moves sp up by 4; nothing else changes (40 R133; D14, D30). -/
def Obligations.ReturnPopsPc : Prop :=
  ∀ s : State, ∃ t, exec .ret s = .next t ∧ t.arch.pc.toNat = bytesNumber s.mem s.arch.sp 4 ∧
    t.arch.sp.toNat = (s.arch.sp.toNat + 4) % 2 ^ 32 ∧ t.arch.sb = s.arch.sb ∧ RegsSame s.arch t.arch ∧
    MemSame s t ∧ Untouched s t

/-! ## Data moves -/

/-- The effective addresses of LOD and STO (41 R151; D9, D30): the end of the instruction plus the signed displacement, plus
for an indexed form the offset register read at Long. -/
def Obligations.EffectiveAddresses : Prop :=
  ∀ (x : Arch) (disp : Half) (o : ViewIdx),
    ((x.directAddr disp).toNat : Int) = (x.pc.toNat + 4 + disp.toInt) % 2 ^ 32 ∧
    (x.indexedAddr disp o).toNat = ((x.directAddr disp).toNat + (x.read .plain .long o).toNat) % 2 ^ 32

/-- LOD in both forms (41 R152, R153; D8, D9): the view takes the n(T) bytes at the effective address, pc moves by 4, and
nothing else changes. -/
def Obligations.LoadsWriteTheView : Prop :=
  ∀ (s : State) (w : Width) (d o : ViewIdx) (disp : Half),
    ∀ p ∈ [(Instr.lodDirect w.tag d disp, s.arch.directAddr disp),
        (Instr.lodIndexed w.tag d o disp, s.arch.indexedAddr disp o)],
      ∃ t v, exec p.1 s = .next t ∧ v.toNat = bytesNumber s.mem p.2 w.bytes ∧ RegsWritten s.arch t.arch w d v ∧
        t.arch.pc.toNat = (s.arch.pc.toNat + 4) % 2 ^ 32 ∧ t.arch.sp = s.arch.sp ∧ t.arch.sb = s.arch.sb ∧
        MemSame s t ∧ Untouched s t

/-- STO in both forms (41 R154, R155; D8, D9): the n(T) bytes at the effective address take the view's value where they lie
inside Memory, every other byte and every register stays, pc moves by 4. -/
def Obligations.StoresWriteTheBytes : Prop :=
  ∀ (s : State) (w : Width) (d o : ViewIdx) (disp : Half),
    ∀ p ∈ [(Instr.stoDirect w.tag d disp, s.arch.directAddr disp),
        (Instr.stoIndexed w.tag d o disp, s.arch.indexedAddr disp o)],
      ∃ t, exec p.1 s = .next t ∧ MemStored s t p.2 w.bytes (s.arch.read .plain w d) ∧
        t.arch.pc.toNat = (s.arch.pc.toNat + 4) % 2 ^ 32 ∧ t.arch.sp = s.arch.sp ∧ t.arch.sb = s.arch.sb ∧
        RegsSame s.arch t.arch ∧ Untouched s t

/-- MOV in both forms (41 R156, R157, R161; D8, D10): the view, or sb at index 8, takes the source; nothing else changes. -/
def Obligations.MovesCopyTheSource : Prop :=
  ∀ (s : State) (w : Width) (d : ViewIdx),
    (∀ q : ViewIdx, ∃ t, exec (.movReg w.tag d q) s = .next t ∧ MoveNext s t w d (s.arch.read .sbCapable w q) 2) ∧
    (∀ v : Word, v.toNat < 2 ^ w.bits →
      ∃ t, exec (.movImm w.tag d v) s = .next t ∧ MoveNext s t w d v (2 + w.bytes))

/-- SWP exchanges two views of one width (41 R158; D8, D39): each then reads what the other read, a view that is neither keeps
its value, sb and memory stay; an operand that names no register reads 0 and drops its write. -/
def Obligations.SwapExchangesTwoViews : Prop :=
  ∀ (s : State) (w : Width) (a b : ViewIdx), ∃ t, exec (.swp w.tag a b) s = .next t ∧
    (spot a w ≠ none → t.arch.read .plain w a = s.arch.read .plain w b) ∧
    (spot b w ≠ none → t.arch.read .plain w b = s.arch.read .plain w a) ∧
    (∀ c : ViewIdx, c ≠ a → c ≠ b → t.arch.read .plain w c = s.arch.read .plain w c) ∧
    (∀ (q : Reg) (k : Nat), k < 32 →
      (∀ i ∈ [a, b], ∀ lo, spot i w = some (q, lo) → ¬ (lo ≤ k ∧ k < lo + w.bits)) →
      (t.arch.reg q).getLsbD k = (s.arch.reg q).getLsbD k) ∧
    t.arch.pc.toNat = (s.arch.pc.toNat + 2) % 2 ^ 32 ∧ t.arch.sp = s.arch.sp ∧ t.arch.sb = s.arch.sb ∧
    MemSame s t ∧ Untouched s t

/-- PSH (41 R159, R161; D8, D10, D30): sp moves down by the bytes moved, one for the status byte, and the value is stored at
the new sp; nothing else changes. -/
def Obligations.PushStoresBelowSp : Prop :=
  ∀ (s : State) (w : Width) (d : ViewIdx), ∃ t, exec (.psh w.tag d) s = .next t ∧
    t.arch.sp = s.arch.spBelow (stackWidth w d) ∧
    (t.arch.sp.toNat : Int) = (s.arch.sp.toNat - stackBytes w.tag d : Int) % 2 ^ 32 ∧
    MemStored s t (s.arch.spBelow (stackWidth w d)) (stackBytes w.tag d)
      (if d = 8 then s.arch.sb.setWidth 32 else s.arch.read .sbCapable w d) ∧
    t.arch.pc.toNat = (s.arch.pc.toNat + 2) % 2 ^ 32 ∧ t.arch.sb = s.arch.sb ∧ RegsSame s.arch t.arch ∧ Untouched s t

/-- POP (41 R160, R161; D8, D10, D30): the view, or sb at index 8, takes the bytes at sp, and sp moves up by as many even
where the write is dropped; nothing else changes. -/
def Obligations.PopReadsAtSp : Prop :=
  ∀ (s : State) (w : Width) (d : ViewIdx), ∃ t v, exec (.pop w.tag d) s = .next t ∧
    v.toNat = bytesNumber s.mem s.arch.sp (stackBytes w.tag d) ∧ RegsWritten s.arch t.arch w d v ∧
    t.arch.sb = (if d = 8 then BitVec.ofNat 8 v.toNat else s.arch.sb) ∧
    t.arch.sp.toNat = (s.arch.sp.toNat + stackBytes w.tag d) % 2 ^ 32 ∧
    t.arch.pc.toNat = (s.arch.pc.toNat + 2) % 2 ^ 32 ∧ MemSame s t ∧ Untouched s t

/-- "PSH then POP of any width restores sp to its pre-push value and the popped value equals the pushed value" (41 R160, E9),
for a stack in memory and a popped view whose write is not dropped. -/
def Obligations.PopUndoesPush : Prop :=
  ∀ (s t : State) (w : Width) (d e : ViewIdx), exec (.psh w.tag d) s = .next t → (d = 8 ↔ e = 8) →
    (spot e w ≠ none ∨ e = 8) →
    (∀ k, k < stackBytes w.tag d → (t.arch.sp + BitVec.ofNat 32 k).toNat < s.mem.size) →
    ∃ u, exec (.pop w.tag e) t = .next u ∧ u.arch.sp = s.arch.sp ∧
      u.arch.read .sbCapable w e = s.arch.read .sbCapable w d

/-! ## Control transfer -/

/-- The four plain jumps (42 R181, R182, R185, R186; C1, D11, D12): pc takes the target, nothing else changes. -/
def Obligations.JumpsReplacePc : Prop :=
  ∀ (s : State) (f : Half) (g : Word),
    ∀ p ∈ [(Instr.jmp f, (s.arch.pc.toNat + 3 + f.toInt : Int)), (Instr.jmpl g, (s.arch.pc.toNat + 5 + g.toInt : Int)),
        (Instr.jmpa f, (f.toNat : Int)), (Instr.jmpal g, (g.toNat : Int))],
      ∃ t, exec p.1 s = .next t ∧ (t.arch.pc.toNat : Int) = p.2 % 2 ^ 32 ∧ t.arch.sp = s.arch.sp ∧
        t.arch.sb = s.arch.sb ∧ RegsSame s.arch t.arch ∧ MemSame s t ∧ Untouched s t

/-- The four call forms (42 R183, R184, R187, R188; C1, D11, D12, D30): the post-instruction pc is stored at sp - 4, sp moves
there, pc takes the target; nothing else changes. -/
def Obligations.CallsPushTheReturnAddress : Prop :=
  ∀ (s : State) (f : Half) (g : Word),
    ∀ p ∈ [(Instr.jsr f, 3, (s.arch.pc.toNat + 3 + f.toInt : Int)), (Instr.jsrl g, 5, (s.arch.pc.toNat + 5 + g.toInt : Int)),
        (Instr.jsra f, 3, (f.toNat : Int)), (Instr.jsral g, 5, (g.toNat : Int))],
      ∃ t, exec p.1 s = .next t ∧ (t.arch.pc.toNat : Int) = p.2.2 % 2 ^ 32 ∧
        t.arch.sp = s.arch.spBelow .long ∧ t.arch.sp = s.arch.sp - 4 ∧
        MemStored s t (s.arch.spBelow .long) 4 (s.arch.pc + BitVec.ofNat 32 p.2.1) ∧
        t.arch.sb = s.arch.sb ∧ RegsSame s.arch t.arch ∧ Untouched s t

/-- RET undoes a call (40 R133, 42 R180, R207; D14): with the stack in memory, it returns to the instruction after the call
with sp, sb and the registers as they were. -/
def Obligations.ReturnUndoesCall : Prop :=
  ∀ (s t : State) (i : Instr),
    (∃ f : Half, i = .jsr f ∨ i = .jsra f) ∨ (∃ g : Word, i = .jsrl g ∨ i = .jsral g) →
    exec i s = .next t → (∀ k, k < 4 → (t.arch.sp + BitVec.ofNat 32 k).toNat < s.mem.size) →
    ∃ u, exec .ret t = .next u ∧ u.arch.pc.toNat = (s.arch.pc.toNat + i.length) % 2 ^ 32 ∧
      u.arch.sp = s.arch.sp ∧ u.arch.sb = s.arch.sb ∧ RegsSame s.arch u.arch

/-- The sixteen branches (42 R190 to R206; D1, D13): taken exactly when the tested bit of sb is the wanted one, relative to the
end of the instruction; nothing but pc changes. -/
def Obligations.BranchesTestOneFlag : Prop :=
  ∀ (s : State) (off : Half), ∀ p ∈ branches,
    ∃ t, exec (p.1 off) s = .next t ∧
      (t.arch.pc.toNat : Int) =
        (s.arch.pc.toNat + 3 + if s.arch.sb.getLsbD p.2.1 = p.2.2 then off.toInt else 0) % 2 ^ 32 ∧
      t.arch.sp = s.arch.sp ∧ t.arch.sb = s.arch.sb ∧ RegsSame s.arch t.arch ∧ MemSame s t ∧ Untouched s t

/-! ## Binary arithmetic -/

/-- ADD (43 R226, with S and Z of R222 and C and V of R223), and its opcode bytes: the sum modulo 2^W; C and V by the sign-bit
identities, C the carry out of the width and V two's-complement overflow. -/
def Obligations.AddGivesTheSum : Prop :=
  (∀ (w : Width) (d q : ViewIdx) (v : Word),
    (encode (.addReg w.tag d q)).head? = some (BitVec.ofNat 8 (0x80 + tagNumber w.tag)) ∧
    (encode (.addImm w.tag d v)).head? = some (BitVec.ofNat 8 (0x84 + tagNumber w.tag))) ∧
  BinaryRule .addReg .addImm true [.c, .v] fun _ w v1 v2 r flag =>
    r.toNat = (v1.toNat + v2.toNat) % 2 ^ w.bits ∧
    flag .c = (topBit w v1 && topBit w v2 || topBit w v1 && !topBit w r || topBit w v2 && !topBit w r) ∧
    flag .v = (!topBit w r && topBit w v1 && topBit w v2 || topBit w r && !topBit w v1 && !topBit w v2) ∧
    flag .c = decide (2 ^ w.bits ≤ v1.toNat + v2.toNat) ∧
    flag .v = decide (signedOf w r ≠ signedOf w v1 + signedOf w v2)

/-- ADC (43 R227, R223; D2, D43): the sum with the carry flag; C is "still the exact carry out". -/
def Obligations.AddWithCarryGivesTheSum : Prop :=
  BinaryRule .adcReg .adcImm true [.c, .v] fun s w v1 v2 r flag =>
    r.toNat = (v1.toNat + v2.toNat + (readFlag s.arch.sb .c).toNat) % 2 ^ w.bits ∧
    flag .c = decide (2 ^ w.bits ≤ v1.toNat + v2.toNat + (readFlag s.arch.sb .c).toNat) ∧
    flag .v = decide (signedOf w r ≠ signedOf w v1 + signedOf w v2 + (readFlag s.arch.sb .c).toNat)

/-- SUB and CMP (43 R228, R230, R224; D2, D21): the difference modulo 2^W, written back by SUB alone; C is the source's
Carry(sub), V two's-complement overflow. -/
def Obligations.SubtractAndCompareGiveTheDifference : Prop :=
  ∀ p ∈ [(Instr.subReg, Instr.subImm, true), (Instr.cmpReg, Instr.cmpImm, false)],
    BinaryRule p.1 p.2.1 p.2.2 [.c, .v] fun _ w v1 v2 r flag =>
      (r.toNat : Int) = ((v1.toNat : Int) - v2.toNat) % 2 ^ w.bits ∧
      flag .c = (topBit w r && !topBit w v1 && !topBit w v2 || !topBit w r && topBit w v1 && topBit w v2) ∧
      flag .v = decide (signedOf w r ≠ signedOf w v1 - signedOf w v2)

/-- SBC (43 R229, R224; D2, D21, D43): the difference less the carry flag as a borrow; C is the source's Carry(sub), V
two's-complement overflow. -/
def Obligations.SubtractWithCarryGivesTheDifference : Prop :=
  BinaryRule .sbcReg .sbcImm true [.c, .v] fun s w v1 v2 r flag =>
    (r.toNat : Int) = ((v1.toNat : Int) - v2.toNat - (readFlag s.arch.sb .c).toNat) % 2 ^ w.bits ∧
    flag .c = (topBit w r && !topBit w v1 && !topBit w v2 || !topBit w r && topBit w v1 && topBit w v2) ∧
    flag .v = decide (signedOf w r ≠ signedOf w v1 - signedOf w v2 - (readFlag s.arch.sb .c).toNat)

/-- AND, OR and XOR (43 R231 to R233; D2, D20): bit by bit; C and V are kept. -/
def Obligations.LogicWorksBitByBit : Prop :=
  ∀ p ∈ [(Instr.andReg, Instr.andImm, (· && ·)), (Instr.orReg, Instr.orImm, (· || ·)),
      (Instr.xorReg, Instr.xorImm, Bool.xor)],
    BinaryRule p.1 p.2.1 true [] fun _ _ v1 v2 r _ =>
      ∀ k, k < 32 → r.getLsbD k = p.2.2 (v1.getLsbD k) (v2.getLsbD k)

/-- MIN and MAX (43 R238, R239; D2, D20): unsigned; C and V are kept. -/
def Obligations.MinAndMaxAreUnsigned : Prop :=
  (BinaryRule .minReg .minImm true [] fun _ _ v1 v2 r _ => r.toNat = min v1.toNat v2.toNat) ∧
  (BinaryRule .maxReg .maxImm true [] fun _ _ v1 v2 r _ => r.toNat = max v1.toNat v2.toNat)

/-- MUL (43 R234, R240; D2, D22): the signed product modulo 2^W; C and V both say whether the magnitude product exceeds the
mask. -/
def Obligations.MultiplyGivesTheSignedProduct : Prop :=
  BinaryRule .mulReg .mulImm true [.c, .v] fun _ w v1 v2 r flag =>
    (r.toNat : Int) = (signedOf w v1 * signedOf w v2) % 2 ^ w.bits ∧
    flag .c = decide (2 ^ w.bits ≤ (signedOf w v1).natAbs * (signedOf w v2).natAbs) ∧
    flag .v = flag .c

/-- DIV by a non-zero divisor (43 R235, R240; D2, D23): the signed quotient truncated toward zero, modulo 2^W; C and V are
cleared, T is kept. -/
def Obligations.DivideTruncatesTowardZero : Prop :=
  BinaryRule .divReg .divImm true [.c, .v, .t] fun s w v1 v2 r flag =>
    v2 ≠ 0 →
      (r.toNat : Int) = (signedOf w v1).tdiv (signedOf w v2) % 2 ^ w.bits ∧
      flag .c = false ∧ flag .v = false ∧ flag .t = readFlag s.arch.sb .t

/-- MOD by a non-zero divisor (43 R236; D2, D23, D24): the remainder of the magnitudes, with the dividend's sign where
MOD_SIGN is Dividend (the spec's default; log 5); C and V are cleared, T is kept. -/
def Obligations.RemainderTakesItsSign : Prop :=
  BinaryRule .modReg .modImm true [.c, .v, .t] fun s w v1 v2 r flag =>
    v2 ≠ 0 →
      (r.toNat : Int) =
        (match s.modSign with
        | .dividend => (signedOf w v1).tmod (signedOf w v2) % 2 ^ w.bits
        | .magnitude => ((signedOf w v1).natAbs % (signedOf w v2).natAbs : Nat)) ∧
      flag .c = false ∧ flag .v = false ∧ flag .t = readFlag s.arch.sb .t

/-- DIV and MOD by zero (60 R301): the all-ones pattern, with T, C and V set, S = 1 and Z = 0, execution goes on at pc_next,
and no instruction but ANDS, XORS, and MOV or POP to index 8 clears T again. -/
def Obligations.ZeroDivisorSetsTrap : Prop :=
  (∀ p ∈ [(Instr.divReg, Instr.divImm), (Instr.modReg, Instr.modImm)],
    BinaryRule p.1 p.2 true [.c, .v, .t] fun _ w _ v2 r flag =>
      v2 = 0 →
        r.toNat = 2 ^ w.bits - 1 ∧ flag .t = true ∧ flag .c = true ∧ flag .v = true ∧ flag .s = true ∧ flag .z = false) ∧
  (∀ (i : Instr) (s t : State), mayClearTrap i = false → readFlag s.arch.sb .t = true → exec i s = .next t →
    readFlag t.arch.sb .t = true)

/-- POW (43 R237, R240; C2, D2, D25): 0 for a negative exponent, with C and V clear; else the signed power modulo 2^W, where
C and V say whether the exact magnitude exceeds the mask, and 0^0 = 1. -/
def Obligations.PowerIsExact : Prop :=
  BinaryRule .powReg .powImm true [.c, .v] fun _ w v1 v2 r flag =>
    if topBit w v2 then r = 0 ∧ flag .c = false ∧ flag .v = false
    else
      (r.toNat : Int) = signedOf w v1 ^ v2.toNat % 2 ^ w.bits ∧
      flag .c = decide (2 ^ w.bits ≤ (signedOf w v1).natAbs ^ v2.toNat) ∧
      flag .v = flag .c

/-- "ADD followed by the inverse SUB of the same operand restores the original register value exactly" (43 R228, E10; D2): at
every width, for every pair of views that share no register bit, or an immediate. -/
def Obligations.SubtractUndoesAdd : Prop :=
  ∀ (s t : State) (w : Width) (d q : ViewIdx) (v : Word), v.toNat < 2 ^ w.bits →
    (spot d w ≠ spot q w ∨ spot d w = none → exec (.addReg w.tag d q) s = .next t →
      ∃ u, exec (.subReg w.tag d q) t = .next u ∧ RegsSame s.arch u.arch) ∧
    (exec (.addImm w.tag d v) s = .next t →
      ∃ u, exec (.subImm w.tag d v) t = .next u ∧ RegsSame s.arch u.arch)

/-- With MOD_SIGN = Dividend, dividend = quotient times divisor plus remainder modulo 2^W, for every non-zero divisor
(43 R236; D24, log 5): DIV into one register and MOD into another that held the same dividend. -/
def Obligations.QuotientAndRemainderRebuildTheDividend : Prop :=
  ∀ (s t u : State) (w : Width) (d e q : ViewIdx), s.modSign = .dividend →
    spot d w ≠ none → spot e w ≠ none → spot d w ≠ spot e w → spot d w ≠ spot q w → spot e w ≠ spot q w →
    s.arch.read .plain w d = s.arch.read .plain w e → s.arch.read .plain w q ≠ 0 →
    exec (.divReg w.tag d q) s = .next t → exec (.modReg w.tag e q) t = .next u →
    (s.arch.read .plain w d).toNat =
      ((u.arch.read .plain w d).toNat * (s.arch.read .plain w q).toNat + (u.arch.read .plain w e).toNat) % 2 ^ w.bits

/-! ## Unary arithmetic -/

/-- INC, DEC, NEG, COM and TST (44 R272 to R276; D3, D20, D26): modulo 2^W; TST gives the flags of the complement and writes
no register; C and V are kept. -/
def Obligations.IncDecNegComTstResults : Prop :=
  (UnaryRule .inc true [] fun w v r _ => r.toNat = (v.toNat + 1) % 2 ^ w.bits) ∧
  (UnaryRule .dec true [] fun w v r _ => r.toNat = (v.toNat + (2 ^ w.bits - 1)) % 2 ^ w.bits) ∧
  (UnaryRule .neg true [] fun w v r _ => (r.toNat : Int) = -(v.toNat : Int) % 2 ^ w.bits) ∧
  (UnaryRule .com true [] fun w v r _ => r.toNat + v.toNat = 2 ^ w.bits - 1) ∧
  (UnaryRule .tst false [] fun w v r _ => r.toNat + v.toNat = 2 ^ w.bits - 1)

/-- ABS, SXT and ZXT (44 R277 to R279; D3, D20): the magnitude; the value extended from the next smaller width, a byte
unchanged; C and V are kept. -/
def Obligations.AbsSxtZxtResults : Prop :=
  (UnaryRule .abs true [] fun w v r _ => r.toNat = (signedOf w v).natAbs) ∧
  (UnaryRule .sxt true [] fun w v r _ =>
    match w with
    | .byte => r = v
    | .word => (r.toNat : Int) = signedOf .byte (v &&& 0xFF) % 2 ^ 16
    | .long => (r.toNat : Int) = signedOf .word (v &&& 0xFFFF) % 2 ^ 32) ∧
  (UnaryRule .zxt true [] fun w v r _ =>
    match w with
    | .byte => r = v
    | .word => r.toNat = v.toNat % 2 ^ 8
    | .long => r.toNat = v.toNat % 2 ^ 16)

/-- SHL, SHR, ROL and ROR by one (44 R280 to R283; D3, D20, D27, I8): SHL and ROL carry out the top bit, ROR the bottom bit,
SHR always clears C; rotates do not go through carry; V is kept. -/
def Obligations.ShiftAndRotateResults : Prop :=
  (UnaryRule .shl true [.c] fun w v r flag => r.toNat = 2 * v.toNat % 2 ^ w.bits ∧ flag .c = topBit w v) ∧
  (UnaryRule .shr true [.c] fun _ v r flag => r.toNat = v.toNat / 2 ∧ flag .c = false) ∧
  (UnaryRule .rol true [.c] fun w v r flag =>
    r.toNat = 2 * v.toNat % 2 ^ w.bits + (topBit w v).toNat ∧ flag .c = topBit w v) ∧
  (UnaryRule .ror true [.c] fun w v r flag =>
    r.toNat = v.toNat / 2 + v.toNat % 2 * 2 ^ (w.bits - 1) ∧ flag .c = decide (v.toNat % 2 = 1))

/-- "INC then DEC on any register and width returns to the original value" but for the flags (44 R272, E11; D3). -/
def Obligations.DecUndoesInc : Prop :=
  ∀ (s t : State) (w : Width) (d : ViewIdx), exec (.inc w.tag d) s = .next t →
    ∃ u, exec (.dec w.tag d) t = .next u ∧ RegsSame s.arch u.arch
end

