-- ==== Sys2Proof/Laws/State.lean ====
section
/-! SUPPORT. One lemma for each field of each update of the state, so that no proof unfolds a record update. -/

namespace Sys2Proof.Machine

/-! ### Applying a Delta -/

@[simp] theorem State.apply_arch (s : State) (δ : Delta) : (s.apply δ).arch = δ.next := rfl
@[simp] theorem State.apply_mem (s : State) (δ : Delta) : (s.apply δ).mem = s.mem.applyWrite δ.write := rfl
@[simp] theorem State.apply_modSign (s : State) (δ : Delta) : (s.apply δ).modSign = s.modSign := rfl
@[simp] theorem Memory.applyWrite_none (m : Memory) : m.applyWrite none = m := rfl
@[simp] theorem Memory.applyWrite_some (m : Memory) (w : DeferredWrite) :
    m.applyWrite (some w) = m.write w.width w.addr w.value := rfl

/-- A Delta without a write changes the architectural state alone. -/
theorem State.commit_eq (s : State) (x : Arch) : s.commit x = .next { s with arch := x } := rfl

/-- A Delta with a write installs the architectural state, then writes. -/
theorem State.commitWrite_eq (s : State) (x : Arch) (w : Width) (a v : Word) :
    s.commitWrite x w a v = .next { s with arch := x, mem := s.mem.write w a v } := rfl

/-- HALT and STUCK answer the state itself (00_scope.md R11). -/
theorem State.unchanged_eq (s : State) : s.unchanged = .next s := rfl

/-! ### Moving past an instruction -/

@[simp] theorem Arch.advance_pc (x : Arch) (n : Nat) : (x.advance n).pc = x.pcAfter n := rfl
@[simp] theorem Arch.advance_sp (x : Arch) (n : Nat) : (x.advance n).sp = x.sp := rfl
@[simp] theorem Arch.advance_sb (x : Arch) (n : Nat) : (x.advance n).sb = x.sb := rfl
@[simp] theorem Arch.advance_a (x : Arch) (n : Nat) : (x.advance n).a = x.a := rfl
@[simp] theorem Arch.advance_b (x : Arch) (n : Nat) : (x.advance n).b = x.b := rfl
@[simp] theorem Arch.advance_c (x : Arch) (n : Nat) : (x.advance n).c = x.c := rfl
@[simp] theorem Arch.advance_d (x : Arch) (n : Nat) : (x.advance n).d = x.d := rfl
@[simp] theorem Arch.advance_f0 (x : Arch) (n : Nat) : (x.advance n).f0 = x.f0 := rfl
@[simp] theorem Arch.advance_f1 (x : Arch) (n : Nat) : (x.advance n).f1 = x.f1 := rfl
@[simp] theorem Arch.advance_f2 (x : Arch) (n : Nat) : (x.advance n).f2 = x.f2 := rfl
@[simp] theorem Arch.advance_f3 (x : Arch) (n : Nat) : (x.advance n).f3 = x.f3 := rfl
@[simp] theorem Arch.advance_reg (x : Arch) (n : Nat) (r : Reg) : (x.advance n).reg r = x.reg r := by cases r <;> rfl

/-! ### Writing a register -/

@[simp] theorem Arch.setReg_pc (x : Arch) (r : Reg) (v : Word) : (x.setReg r v).pc = x.pc := by cases r <;> rfl
@[simp] theorem Arch.setReg_sp (x : Arch) (r : Reg) (v : Word) : (x.setReg r v).sp = x.sp := by cases r <;> rfl
@[simp] theorem Arch.setReg_sb (x : Arch) (r : Reg) (v : Word) : (x.setReg r v).sb = x.sb := by cases r <;> rfl
@[simp] theorem Arch.setReg_f0 (x : Arch) (r : Reg) (v : Word) : (x.setReg r v).f0 = x.f0 := by cases r <;> rfl
@[simp] theorem Arch.setReg_f1 (x : Arch) (r : Reg) (v : Word) : (x.setReg r v).f1 = x.f1 := by cases r <;> rfl
@[simp] theorem Arch.setReg_f2 (x : Arch) (r : Reg) (v : Word) : (x.setReg r v).f2 = x.f2 := by cases r <;> rfl
@[simp] theorem Arch.setReg_f3 (x : Arch) (r : Reg) (v : Word) : (x.setReg r v).f3 = x.f3 := by cases r <;> rfl

/-- The register written holds the value, every other register what it held. -/
theorem Arch.setReg_reg (x : Arch) (r q : Reg) (v : Word) :
    (x.setReg r v).reg q = if q = r then v else x.reg q := by
  cases r <;> cases q <;> rfl

@[simp] theorem Arch.setReg_reg_same (x : Arch) (r : Reg) (v : Word) : (x.setReg r v).reg r = v := by cases r <;> rfl

/-! ### The host's load -/

@[simp] theorem State.load_arch (s : State) (a : Word) (bs : List Byte) : (s.load a bs).arch = s.arch := rfl
@[simp] theorem State.load_mem (s : State) (a : Word) (bs : List Byte) :
    (s.load a bs).mem = s.mem.writeBytes a bs := rfl
@[simp] theorem State.load_modSign (s : State) (a : Word) (bs : List Byte) : (s.load a bs).modSign = s.modSign := rfl

end Sys2Proof.Machine
end

