-- ==== Sys2Proof/Laws/Operands.lean ====
section
/-! SUPPORT. What reading and writing a register view leaves alone (10_state.md R24), and where a write lands. -/

namespace Sys2Proof.Machine

/-! ### Widths -/

@[simp] theorem width?_tag (w : Width) : w.tag.width? = some w := by cases w <;> rfl
@[simp] theorem bytes_tag (w : Width) : w.tag.bytes = w.bytes := by cases w <;> rfl

theorem width?_eq_some {t : TypeTag} {w : Width} (h : t.width? = some w) : t = w.tag := by
  cases t <;> cases w <;> simp_all [TypeTag.width?, Width.tag]

/-- A type tag is Float or the tag of a width (00_scope.md R8). -/
theorem tag_cases (t : TypeTag) : t = .float ∨ ∃ w : Width, t = w.tag := by
  cases t
  · exact .inr ⟨.byte, rfl⟩
  · exact .inr ⟨.word, rfl⟩
  · exact .inr ⟨.long, rfl⟩
  · exact .inl rfl

/-! ### What a view write leaves alone -/

@[simp] theorem Arch.writeView_pc (x : Arch) (k : ViewClass) (w : Width) (v : Word) (u : View) :
    (x.writeView k w v u).pc = x.pc := by
  cases u <;> cases w <;> cases k <;> simp [Arch.writeView]

@[simp] theorem Arch.writeView_sp (x : Arch) (k : ViewClass) (w : Width) (v : Word) (u : View) :
    (x.writeView k w v u).sp = x.sp := by
  cases u <;> cases w <;> cases k <;> simp [Arch.writeView]

@[simp] theorem Arch.writeView_plain_sb (x : Arch) (w : Width) (v : Word) (u : View) :
    (x.writeView .plain w v u).sb = x.sb := by
  cases u <;> cases w <;> simp [Arch.writeView]

@[simp] theorem Arch.writeView_f0 (x : Arch) (k : ViewClass) (w : Width) (v : Word) (u : View) :
    (x.writeView k w v u).f0 = x.f0 := by
  cases u <;> cases w <;> cases k <;> simp [Arch.writeView]

@[simp] theorem Arch.writeView_f1 (x : Arch) (k : ViewClass) (w : Width) (v : Word) (u : View) :
    (x.writeView k w v u).f1 = x.f1 := by
  cases u <;> cases w <;> cases k <;> simp [Arch.writeView]

@[simp] theorem Arch.writeView_f2 (x : Arch) (k : ViewClass) (w : Width) (v : Word) (u : View) :
    (x.writeView k w v u).f2 = x.f2 := by
  cases u <;> cases w <;> cases k <;> simp [Arch.writeView]

@[simp] theorem Arch.writeView_f3 (x : Arch) (k : ViewClass) (w : Width) (v : Word) (u : View) :
    (x.writeView k w v u).f3 = x.f3 := by
  cases u <;> cases w <;> cases k <;> simp [Arch.writeView]

@[simp] theorem Arch.write_pc (x : Arch) (k : ViewClass) (w : Width) (i : ViewIdx) (v : Word) :
    (x.write k w i v).pc = x.pc := by simp [Arch.write]
@[simp] theorem Arch.write_sp (x : Arch) (k : ViewClass) (w : Width) (i : ViewIdx) (v : Word) :
    (x.write k w i v).sp = x.sp := by simp [Arch.write]
@[simp] theorem Arch.write_plain_sb (x : Arch) (w : Width) (i : ViewIdx) (v : Word) :
    (x.write .plain w i v).sb = x.sb := by simp [Arch.write]
@[simp] theorem Arch.write_f0 (x : Arch) (k : ViewClass) (w : Width) (i : ViewIdx) (v : Word) :
    (x.write k w i v).f0 = x.f0 := by simp [Arch.write]
@[simp] theorem Arch.write_f1 (x : Arch) (k : ViewClass) (w : Width) (i : ViewIdx) (v : Word) :
    (x.write k w i v).f1 = x.f1 := by simp [Arch.write]
@[simp] theorem Arch.write_f2 (x : Arch) (k : ViewClass) (w : Width) (i : ViewIdx) (v : Word) :
    (x.write k w i v).f2 = x.f2 := by simp [Arch.write]
@[simp] theorem Arch.write_f3 (x : Arch) (k : ViewClass) (w : Width) (i : ViewIdx) (v : Word) :
    (x.write k w i v).f3 = x.f3 := by simp [Arch.write]

/-- The view of an index is the status byte exactly at index 8 (10_state.md R22). -/
theorem viewOf_status (i : ViewIdx) : viewOf i = .status ↔ i = 8 := by
  revert i
  decide

/-- An sb-capable write changes sb exactly when it names index 8 (R24). -/
theorem Arch.write_sbCapable_sb (x : Arch) (w : Width) (i : ViewIdx) (v : Word) :
    (x.write .sbCapable w i v).sb = if i = 8 then v.setWidth 8 else x.sb := by
  by_cases hi : i = 8
  · subst hi; rfl
  · have hv : viewOf i ≠ .status := fun h => hi ((viewOf_status i).mp h)
    simp only [Arch.write, hi, if_false]
    cases hu : viewOf i with
    | low r => simp [Arch.writeView]
    | high r => cases w <;> simp [Arch.writeView]
    | status => exact absurd hu hv
    | outOfRange => simp [Arch.writeView]

/-- Reading a view sees the general registers and sb, and nothing else. -/
theorem Arch.read_congr {x y : Arch} (hr : ∀ r, x.reg r = y.reg r) (hs : x.sb = y.sb) (k : ViewClass) (w : Width)
    (i : ViewIdx) : x.read k w i = y.read k w i := by
  unfold Arch.read
  cases viewOf i <;> cases w <;> cases k <;> simp [Arch.readView, hr, hs]

@[simp] theorem Arch.read_advance (x : Arch) (n : Nat) (k : ViewClass) (w : Width) (i : ViewIdx) :
    (x.advance n).read k w i = x.read k w i :=
  Arch.read_congr (by simp) (by simp) k w i

end Sys2Proof.Machine
end

