-- ==== Sys2Proof/Laws/Flags.lean ====
section
/-! SUPPORT. Flags one at a time: what a flag write and the status byte of an arithmetic operation leave each flag at
(10_state.md R32, 43_alu_binary.md R220). -/

namespace Sys2Proof.Machine

/-- A flag written is the value written, every other flag what it was. -/
theorem readFlag_writeFlag (sb : Byte) (g q : Flag) (b : Bool) :
    readFlag (writeFlag sb g b) q = if q = g then b else readFlag sb q := by
  cases g <;> cases q <;> cases b <;> simp [readFlag, writeFlag, Flag.bit]

theorem readFlag_writeFlag? (sb : Byte) (g q : Flag) (o : Option Bool) :
    readFlag (writeFlag? sb g o) q = if q = g then o.getD (readFlag sb q) else readFlag sb q := by
  cases o with
  | none => simp [writeFlag?]
  | some b => simp [writeFlag?, readFlag_writeFlag]

/-- Two status bytes with the same flags are the same byte: all eight bits are flags (R30). -/
theorem status_ext {x y : Byte} (h : ∀ g, readFlag x g = readFlag y g) : x = y := by
  apply BitVec.eq_of_getLsbD_eq
  intro i hi
  have hc := h .c; have hh := h .h; have hf := h .f; have ht := h .t
  have hi' := h .i; have hv := h .v; have hz := h .z; have hs := h .s
  simp only [readFlag, Flag.bit] at hc hh hf ht hi' hv hz hs
  interval_cases i <;> assumption

/-- Every flag after an arithmetic operation. -/
theorem readFlag_aluStatus (w : Width) (o : AluOut) (sb : Byte) (g : Flag) :
    readFlag (aluStatus w o sb) g
      = match g with
        | .s => w.sign o.result
        | .z => decide (o.result &&& w.mask = 0)
        | .c => o.carry.getD (readFlag sb .c)
        | .v => o.overflow.getD (readFlag sb .v)
        | .t => o.trap || readFlag sb .t
        | .h => readFlag sb .h
        | .f => readFlag sb .f
        | .i => readFlag sb .i := by
  unfold aluStatus
  cases ht : o.trap <;> cases g <;> simp [readFlag_writeFlag, readFlag_writeFlag?]

/-! ### Retiring an arithmetic instruction -/

@[simp] theorem Arch.retireAlu_pc (x : Arch) (wb : WriteBack) (w : Width) (d : ViewIdx) (o : AluOut) (n : Nat) :
    (x.retireAlu wb w d o n).pc = x.pcAfter n := by
  cases wb <;> simp [Arch.retireAlu, Arch.advance, Arch.pcAfter]
@[simp] theorem Arch.retireAlu_sp (x : Arch) (wb : WriteBack) (w : Width) (d : ViewIdx) (o : AluOut) (n : Nat) :
    (x.retireAlu wb w d o n).sp = x.sp := by cases wb <;> simp [Arch.retireAlu]
@[simp] theorem Arch.retireAlu_sb (x : Arch) (wb : WriteBack) (w : Width) (d : ViewIdx) (o : AluOut) (n : Nat) :
    (x.retireAlu wb w d o n).sb = aluStatus w o x.sb := rfl
@[simp] theorem Arch.retireAlu_f0 (x : Arch) (wb : WriteBack) (w : Width) (d : ViewIdx) (o : AluOut) (n : Nat) :
    (x.retireAlu wb w d o n).f0 = x.f0 := by cases wb <;> simp [Arch.retireAlu]
@[simp] theorem Arch.retireAlu_f1 (x : Arch) (wb : WriteBack) (w : Width) (d : ViewIdx) (o : AluOut) (n : Nat) :
    (x.retireAlu wb w d o n).f1 = x.f1 := by cases wb <;> simp [Arch.retireAlu]
@[simp] theorem Arch.retireAlu_f2 (x : Arch) (wb : WriteBack) (w : Width) (d : ViewIdx) (o : AluOut) (n : Nat) :
    (x.retireAlu wb w d o n).f2 = x.f2 := by cases wb <;> simp [Arch.retireAlu]
@[simp] theorem Arch.retireAlu_f3 (x : Arch) (wb : WriteBack) (w : Width) (d : ViewIdx) (o : AluOut) (n : Nat) :
    (x.retireAlu wb w d o n).f3 = x.f3 := by cases wb <;> simp [Arch.retireAlu]

/-- The registers after a write-back are those of the view write alone. -/
theorem Arch.retireAlu_writes_reg (x : Arch) (w : Width) (d : ViewIdx) (o : AluOut) (n : Nat) (r : Reg) :
    (x.retireAlu .writes w d o n).reg r = (x.write .plain w d o.result).reg r := by
  cases r <;> rfl

/-- The registers where the write-back is suppressed are unchanged. -/
@[simp] theorem Arch.retireAlu_suppressed_reg (x : Arch) (w : Width) (d : ViewIdx) (o : AluOut) (n : Nat) (r : Reg) :
    (x.retireAlu .suppressed w d o n).reg r = x.reg r := by
  cases r <;> rfl

end Sys2Proof.Machine
end

