-- ==== Sys2Proof/Laws/Memory.lean ====
section
/-! SUPPORT. What the memory operations do: the byte each address reads as after a write (20_memory.md R62), and that
every operation keeps the canonical form. -/

namespace Sys2Proof.Machine

/-! ### Cells -/

theorem findCell_dropCell (cells : List Host.Cell) (a c : Nat) :
    findCell (dropCell cells a) c = if c = a then none else findCell cells c := by
  induction cells with
  | nil => simp [dropCell, findCell]
  | cons p rest ih =>
    obtain ⟨b, x⟩ := p
    simp only [dropCell, findCell]
    split
    · next hb => grind
    · next hb => grind [findCell]

theorem findCell_insertCell (cells : List Host.Cell) (a c : Nat) (v : Byte) (h : findCell cells a = none) :
    findCell (insertCell cells a v) c = if c = a then some v else findCell cells c := by
  induction cells with
  | nil => grind [insertCell, findCell]
  | cons p rest ih =>
    obtain ⟨b, x⟩ := p
    have hba : b ≠ a := fun hb => by simp [findCell, hb] at h
    have hrest : findCell rest a = none := by simpa [findCell, hba] using h
    simp only [insertCell]
    split
    · grind [findCell]
    · grind [findCell]

/-- Looking up after a put: the address put reads the byte, unlisted where it is the unwritten byte. -/
theorem findCell_putCell (cells : List Host.Cell) (a c : Nat) (v : Byte) :
    findCell (putCell cells a v) c
      = if c = a then (if v = Config.unwrittenByte then none else some v) else findCell cells c := by
  have hnone : findCell (dropCell cells a) a = none := by simp [findCell_dropCell]
  unfold putCell
  by_cases hv : v = Config.unwrittenByte
  · simp [hv, findCell_dropCell]
  · by_cases hc : c = a <;> simp [hv, findCell_insertCell _ _ _ _ hnone, findCell_dropCell, hc]

/-! ### Canonical form of the cells -/

theorem cellsRise_of_le {lo hi : Nat} {cells : List Host.Cell} (hle : lo ≤ hi) (h : cellsRise hi cells = true) :
    cellsRise lo cells = true := by
  cases cells with
  | nil => rfl
  | cons p rest =>
    obtain ⟨b, x⟩ := p
    simp only [cellsRise, Bool.and_eq_true, decide_eq_true_eq] at h ⊢
    exact ⟨by omega, h.2⟩

theorem cellsRise_dropCell {lo : Nat} {cells : List Host.Cell} (a : Nat) (h : cellsRise lo cells = true) :
    cellsRise lo (dropCell cells a) = true := by
  induction cells generalizing lo with
  | nil => rfl
  | cons p rest ih =>
    obtain ⟨b, x⟩ := p
    simp only [cellsRise, Bool.and_eq_true, decide_eq_true_eq] at h
    by_cases hb : b = a
    · simp only [dropCell, hb, if_true]
      exact cellsRise_of_le (by omega) (ih h.2)
    · simp only [dropCell, hb, if_false, cellsRise, Bool.and_eq_true, decide_eq_true_eq]
      exact ⟨h.1, ih h.2⟩

theorem cellsListed_dropCell {size : Nat} {cells : List Host.Cell} (a : Nat) (h : cellsListed size cells = true) :
    cellsListed size (dropCell cells a) = true := by
  induction cells with
  | nil => rfl
  | cons p rest ih =>
    obtain ⟨b, x⟩ := p
    simp only [cellsListed, Bool.and_eq_true, decide_eq_true_eq] at h
    by_cases hb : b = a
    · simpa only [dropCell, hb, if_true] using ih h.2
    · simp only [dropCell, hb, if_false, cellsListed, Bool.and_eq_true, decide_eq_true_eq]
      exact ⟨h.1, ih h.2⟩

theorem cellsRise_insertCell {lo : Nat} {cells : List Host.Cell} (a : Nat) (v : Byte) (hlo : lo ≤ a)
    (h : cellsRise lo cells = true) (hnone : findCell cells a = none) :
    cellsRise lo (insertCell cells a v) = true := by
  induction cells generalizing lo with
  | nil => simp [insertCell, cellsRise, hlo]
  | cons p rest ih =>
    obtain ⟨b, x⟩ := p
    simp only [cellsRise, Bool.and_eq_true, decide_eq_true_eq] at h
    have hba : b ≠ a := fun hb => by simp [findCell, hb] at hnone
    have hrest : findCell rest a = none := by simpa [findCell, hba] using hnone
    by_cases hlt : a < b
    · simp only [insertCell, hlt, if_true, cellsRise, Bool.and_eq_true, decide_eq_true_eq]
      exact ⟨hlo, by omega, h.2⟩
    · simp only [insertCell, hlt, if_false, cellsRise, Bool.and_eq_true, decide_eq_true_eq]
      exact ⟨h.1, ih (by omega) h.2 hrest⟩

theorem cellsListed_insertCell {size : Nat} {cells : List Host.Cell} (a : Nat) (v : Byte) (ha : a < size)
    (hv : v ≠ Config.unwrittenByte) (h : cellsListed size cells = true) :
    cellsListed size (insertCell cells a v) = true := by
  induction cells with
  | nil => simp [insertCell, cellsListed, ha, hv]
  | cons p rest ih =>
    obtain ⟨b, x⟩ := p
    simp only [cellsListed, Bool.and_eq_true, decide_eq_true_eq] at h
    by_cases hlt : a < b
    · simp only [insertCell, hlt, if_true, cellsListed, Bool.and_eq_true, decide_eq_true_eq]
      exact ⟨⟨ha, hv⟩, h⟩
    · simp only [insertCell, hlt, if_false, cellsListed, Bool.and_eq_true, decide_eq_true_eq]
      exact ⟨h.1, ih h.2⟩

/-! ### Sizes -/

@[simp] theorem Memory.setByte_size (m : Memory) (a : Word) (v : Byte) : (m.setByte a v).size = m.size := by
  unfold Memory.setByte
  split <;> rfl

@[simp] theorem Memory.writeBytes_size (m : Memory) (a : Word) (bs : List Byte) :
    (m.writeBytes a bs).size = m.size := by
  induction bs generalizing m a with
  | nil => rfl
  | cons b bs ih => simp [Memory.writeBytes, ih]

@[simp] theorem Memory.write_size (m : Memory) (w : Width) (a v : Word) : (m.write w a v).size = m.size := by
  simp [Memory.write]

@[simp] theorem leBytes_length (n : Nat) (v : Word) : (leBytes n v).length = n := by
  induction n generalizing v with
  | zero => rfl
  | succ n ih => simp [leBytes, ih]

/-! ### The canonical form -/

/-- The canonical form in words: the size, the rising addresses, and nothing listed that need not be. -/
theorem Memory.wf_iff (m : Memory) :
    m.wf = true ↔
      1 ≤ m.size ∧ m.size ≤ 2 ^ 32 ∧ cellsRise 0 m.cells = true ∧ cellsListed m.size m.cells = true := by
  simp [Memory.wf, and_assoc]

theorem Memory.setByte_wf {m : Memory} (a : Word) (v : Byte) (h : m.wf = true) : (m.setByte a v).wf = true := by
  rw [Memory.wf_iff] at h ⊢
  obtain ⟨h1, h2, hr, hl⟩ := h
  unfold Memory.setByte
  by_cases ha : a.toNat < m.size
  · have hnone : findCell (dropCell m.cells a.toNat) a.toNat = none := by simp [findCell_dropCell]
    simp only [ha, if_true]
    refine ⟨h1, h2, ?_, ?_⟩ <;> unfold putCell <;> split
    · exact cellsRise_dropCell _ hr
    · exact cellsRise_insertCell _ _ (Nat.zero_le _) (cellsRise_dropCell _ hr) hnone
    · exact cellsListed_dropCell _ hl
    · exact cellsListed_insertCell _ _ ha ‹_› (cellsListed_dropCell _ hl)
  · simp only [ha, if_false]
    exact ⟨h1, h2, hr, hl⟩

theorem Memory.writeBytes_wf {m : Memory} (a : Word) (bs : List Byte) (h : m.wf = true) :
    (m.writeBytes a bs).wf = true := by
  induction bs generalizing m a with
  | nil => exact h
  | cons b bs ih => exact ih (a + 1) (Memory.setByte_wf a b h)

theorem Memory.write_wf {m : Memory} (w : Width) (a v : Word) (h : m.wf = true) : (m.write w a v).wf = true :=
  Memory.writeBytes_wf a _ h

theorem Memory.applyWrite_wf {m : Memory} (o : Option DeferredWrite) (h : m.wf = true) :
    (m.applyWrite o).wf = true := by
  cases o with
  | none => exact h
  | some w => exact Memory.write_wf _ _ _ h

theorem cellsListed_of_le {lo hi : Nat} {cells : List Host.Cell} (hle : lo ≤ hi) (h : cellsListed lo cells = true) :
    cellsListed hi cells = true := by
  induction cells with
  | nil => rfl
  | cons p rest ih =>
    obtain ⟨b, x⟩ := p
    simp only [cellsListed, Bool.and_eq_true, decide_eq_true_eq] at h ⊢
    exact ⟨⟨by omega, h.1.2⟩, ih h.2⟩

theorem Memory.covering_wf {m : Memory} (a : Word) (h : m.wf = true) : (m.covering a).wf = true := by
  unfold Memory.covering
  split
  · exact h
  · rw [Memory.wf_iff] at h ⊢
    exact ⟨Nat.one_le_two_pow, Nat.le_refl _, h.2.2.1, cellsListed_of_le h.2.1 h.2.2.2⟩

/-- What the host places at pc leaves memory canonical. -/
theorem State.placeAtPc_wf {s : State} (bs : List Byte) (h : s.mem.wf = true) : (s.placeAtPc bs).mem.wf = true :=
  Memory.writeBytes_wf _ bs (Memory.covering_wf _ h)

/-! ### The byte an address reads as -/

theorem Memory.byte_outside {m : Memory} {x : Word} (h : m.size ≤ x.toNat) : m.byte x = Config.outOfRangeByte := by
  simp [Memory.byte, Memory.unlisted, Nat.not_lt.mpr h]

theorem Memory.byte_inside {m : Memory} {x : Word} (h : x.toNat < m.size) :
    m.byte x = (findCell m.cells x.toNat).getD Config.unwrittenByte := by
  simp [Memory.byte, Memory.unlisted, h]

/-- One byte written: that address reads it where it is inside Memory, every other address as before. -/
theorem Memory.byte_setByte (m : Memory) (a x : Word) (v : Byte) :
    (m.setByte a v).byte x = if x = a ∧ a.toNat < m.size then v else m.byte x := by
  by_cases hx : x.toNat < m.size
  · rw [Memory.byte_inside (by simpa using hx), Memory.byte_inside hx]
    by_cases ha : a.toNat < m.size
    · by_cases hxa : x = a
      · subst hxa
        by_cases hv : v = Config.unwrittenByte <;> simp [Memory.setByte, ha, findCell_putCell, hv]
      · have hne : x.toNat ≠ a.toNat := fun h => hxa (BitVec.eq_of_toNat_eq h)
        simp [Memory.setByte, ha, findCell_putCell, hne, hxa]
    · simp [Memory.setByte, ha]
  · rw [Memory.byte_outside (by simpa using hx), Memory.byte_outside (Nat.not_lt.mp hx)]
    split
    · next h => exact absurd (h.1 ▸ h.2) hx
    · rfl

/-- Bytes written at rising addresses: each address the run covers reads its byte where it is inside Memory, every other
address as before (20_memory.md R62). -/
theorem Memory.byte_writeBytes (m : Memory) (a x : Word) (bs : List Byte) (hlen : bs.length ≤ 2 ^ 32) :
    (m.writeBytes a bs).byte x
      = if (x - a).toNat < bs.length ∧ x.toNat < m.size then bs.getD (x - a).toNat 0 else m.byte x := by
  induction bs generalizing m a with
  | nil => simp [Memory.writeBytes]
  | cons b bs ih =>
    have hlen' : bs.length ≤ 2 ^ 32 := by simp at hlen; omega
    rw [Memory.writeBytes, ih _ _ hlen', Memory.byte_setByte, Memory.setByte_size]
    by_cases hxa : x = a
    · subst hxa
      have hback : (x - (x + 1)).toNat = 2 ^ 32 - 1 := by
        rw [show x - (x + 1) = -1#32 by bv_omega]; rfl
      have hnot : ¬ (x - (x + 1)).toNat < bs.length := by simp at hlen; omega
      rw [if_neg (fun h => hnot h.1)]
      simp
    · have hstep : (x - a).toNat = (x - (a + 1)).toNat + 1 := by
        have : x - a ≠ 0 := fun h => hxa (by bv_omega)
        bv_omega
      simp [hxa, hstep]

theorem leBytes_getD (n : Nat) (v : Word) (k : Nat) (hk : k < n) :
    (leBytes n v).getD k 0 = v.extractLsb' (8 * k) 8 := by
  induction n generalizing v k with
  | zero => omega
  | succ n ih =>
    cases k with
    | zero => ext i hi; simp [leBytes]
    | succ k =>
      have := ih (v >>> 8) k (by omega)
      simp only [leBytes, List.getD_cons_succ, this]
      ext i hi
      simp
      congr 1
      omega

/-- A store: byte k of the value at a + k where that is inside Memory, every other address as before (R62, R303). -/
theorem Memory.byte_write (m : Memory) (w : Width) (a v x : Word) :
    (m.write w a v).byte x
      = if (x - a).toNat < w.bytes ∧ x.toNat < m.size then v.extractLsb' (8 * (x - a).toNat) 8 else m.byte x := by
  have hlen : (leBytes w.bytes v).length ≤ 2 ^ 32 := by cases w <;> simp [Width.bytes]
  rw [Memory.write, Memory.byte_writeBytes _ _ _ _ hlen, leBytes_length]
  by_cases h : (x - a).toNat < w.bytes ∧ x.toNat < m.size
  · rw [if_pos h, if_pos h, leBytes_getD _ _ _ h.1]
  · rw [if_neg h, if_neg h]

/-- The k-th byte read is the byte at a + k (R62, R63). -/
theorem Memory.readBytes_getD (m : Memory) (a : Word) (n k : Nat) (hk : k < n) :
    (m.readBytes a n).getD k 0 = m.byte (a + BitVec.ofNat 32 k) := by
  induction n generalizing a k with
  | zero => omega
  | succ n ih =>
    cases k with
    | zero => simp [Memory.readBytes]
    | succ k =>
      rw [Memory.readBytes, List.getD_cons_succ, ih _ _ (by omega)]
      congr 1
      rw [BitVec.add_assoc]
      congr 1
      apply BitVec.eq_of_toNat_eq
      simp
      omega

@[simp] theorem Memory.readBytes_length (m : Memory) (a : Word) (n : Nat) : (m.readBytes a n).length = n := by
  induction n generalizing a with
  | zero => rfl
  | succ n ih => simp [Memory.readBytes, ih]

/-- A read sees only the bytes: memories that read alike everywhere give the same value. -/
theorem Memory.read_congr {m n : Memory} (h : ∀ x, m.byte x = n.byte x) (w : Width) (a : Word) :
    m.read w a = n.read w a := by
  have hb : ∀ k b, m.readBytes b k = n.readBytes b k := by
    intro k
    induction k with
    | zero => intro b; rfl
    | succ k ih => intro b; simp [Memory.readBytes, h, ih]
  simp [Memory.read, hb]

end Sys2Proof.Machine
end

