-- ==== Sys2Proof/Laws/Ops.lean ====
section
/-! SUPPORT. One lemma for each shared operation: the next state it answers, or the refusal; and what any instruction at
all can do, said once. -/

namespace Sys2Proof.Machine

/-! ### Type tags -/

@[simp] theorem atWidth_tag (w : Width) (e : Refusal) (k : Width → StepResult) : atWidth w.tag e k = k w := by
  cases w <;> rfl

@[simp] theorem atWidth_float (e : Refusal) (k : Width → StepResult) : atWidth .float e k = .refused e := rfl

/-- A form that answers a next state runs at a width. -/
theorem atWidth_next {t : TypeTag} {e : Refusal} {k : Width → StepResult} {s' : State}
    (h : atWidth t e k = .next s') : ∃ w : Width, t = w.tag ∧ k w = .next s' := by
  obtain rfl | ⟨w, rfl⟩ := tag_cases t
  · simp at h
  · exact ⟨w, rfl, by simpa using h⟩

/-! ### Shared operations at a width -/

theorem statusLogic_eq (s : State) (sb : Byte) :
    statusLogic s sb = .next { s with arch := { s.arch.advance 2 with sb := sb } } := rfl

theorem loadFrom_tag (w : Width) (d : ViewIdx) (a : Word) (s : State) :
    loadFrom w.tag d a s
      = .next { s with arch := (s.arch.write .plain w d (s.mem.read w a)).advance 4 } := by
  simp [loadFrom, State.commit_eq]

theorem storeTo_tag (w : Width) (d : ViewIdx) (a : Word) (s : State) :
    storeTo w.tag d a s
      = .next { s with arch := s.arch.advance 4, mem := s.mem.write w a (s.arch.read .plain w d) } := by
  simp [storeTo, State.commitWrite_eq]

theorem jumpTo_eq (a : Word) (s : State) : jumpTo a s = .next { s with arch := { s.arch with pc := a } } := rfl

theorem callTo_eq (n : Nat) (a : Word) (s : State) :
    callTo n a s
      = .next { s with
          arch := { s.arch with pc := a, sp := s.arch.spBelow .long },
          mem := s.mem.write .long (s.arch.spBelow .long) (s.arch.pcAfter n) } := rfl

theorem branchIf_eq (g : Flag) (b : Bool) (off : Half) (s : State) :
    branchIf g b off s
      = .next { s with
          arch := { s.arch with
            pc := if readFlag s.arch.sb g = b then s.arch.shortTarget off else s.arch.pcAfter 3 } } := by
  unfold branchIf
  split <;> rfl

theorem binaryReg_tag (wb : WriteBack) (op : BinaryOp) (w : Width) (d r : ViewIdx) (s : State) :
    binaryReg wb op w.tag d r s
      = .next { s with
          arch := s.arch.retireAlu wb w d (op s w (s.arch.read .plain w d) (s.arch.read .plain w r)) 2 } := by
  simp [binaryReg, State.commit_eq]

theorem binaryImm_tag (wb : WriteBack) (op : BinaryOp) (w : Width) (d : ViewIdx) (imm : Word) (s : State) :
    binaryImm wb op w.tag d imm s
      = .next { s with
          arch := s.arch.retireAlu wb w d (op s w (s.arch.read .plain w d) (immAt w imm)) (2 + w.bytes) } := by
  simp [binaryImm, State.commit_eq]

theorem unary_tag (wb : WriteBack) (op : UnaryOp) (w : Width) (d : ViewIdx) (s : State) :
    unary wb op w.tag d s
      = .next { s with arch := s.arch.retireAlu wb w d (op w (s.arch.read .plain w d)) 2 } := by
  simp [unary, State.commit_eq]

/-! ### Every next state is an applied Delta (10_state.md R34) -/

/-- The answer is a Delta applied to the state, where it is a next state at all. -/
def AppliesDelta (s : State) (r : StepResult) : Prop := ∀ t, r = .next t → ∃ δ : Delta, t = s.apply δ

theorem appliesDelta_commit (s : State) (x : Arch) : AppliesDelta s (s.commit x) := by
  intro t h
  exact ⟨_, (Host.Outcome.next.inj h).symm⟩

theorem appliesDelta_commitWrite (s : State) (x : Arch) (w : Width) (a v : Word) :
    AppliesDelta s (s.commitWrite x w a v) := by
  intro t h
  exact ⟨_, (Host.Outcome.next.inj h).symm⟩

theorem appliesDelta_refused (s : State) (e : Refusal) : AppliesDelta s (.refused e) := by
  intro t h
  cases h

theorem appliesDelta_atWidth (s : State) (t : TypeTag) (e : Refusal) (k : Width → StepResult)
    (h : ∀ w, AppliesDelta s (k w)) : AppliesDelta s (atWidth t e k) := by
  intro s' hs
  obtain ⟨w, -, hw⟩ := atWidth_next hs
  exact h w s' hw

theorem appliesDelta_branchIf (s : State) (g : Flag) (b : Bool) (off : Half) : AppliesDelta s (branchIf g b off s) := by
  unfold branchIf
  split
  · exact appliesDelta_commit _ _
  · exact appliesDelta_commit _ _

/-- Whatever the instruction, a next state is the state with one Delta applied. -/
theorem exec_appliesDelta (i : Instr) (s : State) : AppliesDelta s (exec i s) := by
  cases i
  all_goals first
    | exact appliesDelta_commit _ _
    | exact appliesDelta_commitWrite _ _ _ _ _
    | exact appliesDelta_refused _ _
    | exact appliesDelta_branchIf _ _ _ _
    | exact appliesDelta_atWidth _ _ _ _ fun _ => appliesDelta_commit _ _
    | exact appliesDelta_atWidth _ _ _ _ fun _ => appliesDelta_commitWrite _ _ _ _ _

end Sys2Proof.Machine
end

