-- ==== Sys2Proof/Laws/PerInstr.lean ====
section
/-! SUPPORT. The family EncodedLength, one lemma for each constructor of `Instr`: the encoder writes as many bytes as the
instruction is long (30_encoding.md R90), between 1 and 6. -/

namespace Sys2Proof.Laws.EncodedLength

/-- The encoding has the instruction's length, and that is 1 to 6 bytes (R90). -/
def Statement (i : Instr) : Prop := (encode i).length = i.length ∧ 1 ≤ i.length ∧ i.length ≤ 6

/-- An instruction whose length is a numeral: each part holds by evaluation. -/
theorem fixed (i : Instr) (h : (encode i).length = i.length) (lo : Nat.ble 1 i.length = true)
    (hi : Nat.ble i.length 6 = true) : Statement i :=
  ⟨h, Nat.le_of_ble_eq_true lo, Nat.le_of_ble_eq_true hi⟩

/-- The immediate adds n(T) bytes to the two before it. -/
theorem immediate (t : TypeTag) (a b : Byte) (imm : Word) :
    (a :: b :: immBytes t imm).length = 2 + t.bytes ∧ 1 ≤ 2 + t.bytes ∧ 2 + t.bytes ≤ 6 := by
  cases t <;> simp [immBytes, wordBytes, TypeTag.bytes]

theorem nop : Statement (.nop) := fixed _ rfl rfl rfl
theorem hlt : Statement (.hlt) := fixed _ rfl rfl rfl
theorem wfi : Statement (.wfi) := fixed _ rfl rfl rfl
theorem ret : Statement (.ret) := fixed _ rfl rfl rfl
theorem rfi : Statement (.rfi) := fixed _ rfl rfl rfl
theorem irq : Statement (.irq) := fixed _ rfl rfl rfl
theorem nmi : Statement (.nmi) := fixed _ rfl rfl rfl
theorem andsReg (d : ViewIdx) : Statement (.andsReg d) := fixed _ rfl rfl rfl
theorem orsReg (d : ViewIdx) : Statement (.orsReg d) := fixed _ rfl rfl rfl
theorem xorsReg (d : ViewIdx) : Statement (.xorsReg d) := fixed _ rfl rfl rfl
theorem andsImm (imm : Byte) : Statement (.andsImm imm) := fixed _ rfl rfl rfl
theorem orsImm (imm : Byte) : Statement (.orsImm imm) := fixed _ rfl rfl rfl
theorem xorsImm (imm : Byte) : Statement (.xorsImm imm) := fixed _ rfl rfl rfl
theorem lodDirect (t : TypeTag) (d : ViewIdx) (disp : Half) : Statement (.lodDirect t d disp) := fixed _ rfl rfl rfl
theorem lodIndexed (t : TypeTag) (d o : ViewIdx) (disp : Half) : Statement (.lodIndexed t d o disp) := fixed _ rfl rfl rfl
theorem stoDirect (t : TypeTag) (d : ViewIdx) (disp : Half) : Statement (.stoDirect t d disp) := fixed _ rfl rfl rfl
theorem stoIndexed (t : TypeTag) (d o : ViewIdx) (disp : Half) : Statement (.stoIndexed t d o disp) := fixed _ rfl rfl rfl
theorem movReg (t : TypeTag) (d r : ViewIdx) : Statement (.movReg t d r) := fixed _ rfl rfl rfl
theorem movImm (t : TypeTag) (d : ViewIdx) (imm : Word) : Statement (.movImm t d imm) := immediate t _ _ imm
theorem swp (t : TypeTag) (a b : ViewIdx) : Statement (.swp t a b) := fixed _ rfl rfl rfl
theorem psh (t : TypeTag) (d : ViewIdx) : Statement (.psh t d) := fixed _ rfl rfl rfl
theorem pop (t : TypeTag) (d : ViewIdx) : Statement (.pop t d) := fixed _ rfl rfl rfl
theorem jmp (addr : Half) : Statement (.jmp addr) := fixed _ rfl rfl rfl
theorem jmpl (addr : Word) : Statement (.jmpl addr) := fixed _ rfl rfl rfl
theorem jsr (addr : Half) : Statement (.jsr addr) := fixed _ rfl rfl rfl
theorem jsrl (addr : Word) : Statement (.jsrl addr) := fixed _ rfl rfl rfl
theorem jmpa (addr : Half) : Statement (.jmpa addr) := fixed _ rfl rfl rfl
theorem jmpal (addr : Word) : Statement (.jmpal addr) := fixed _ rfl rfl rfl
theorem jsra (addr : Half) : Statement (.jsra addr) := fixed _ rfl rfl rfl
theorem jsral (addr : Word) : Statement (.jsral addr) := fixed _ rfl rfl rfl
theorem bcc (off : Half) : Statement (.bcc off) := fixed _ rfl rfl rfl
theorem bhc (off : Half) : Statement (.bhc off) := fixed _ rfl rfl rfl
theorem bfc (off : Half) : Statement (.bfc off) := fixed _ rfl rfl rfl
theorem btc (off : Half) : Statement (.btc off) := fixed _ rfl rfl rfl
theorem bic (off : Half) : Statement (.bic off) := fixed _ rfl rfl rfl
theorem bvc (off : Half) : Statement (.bvc off) := fixed _ rfl rfl rfl
theorem bzc (off : Half) : Statement (.bzc off) := fixed _ rfl rfl rfl
theorem bsc (off : Half) : Statement (.bsc off) := fixed _ rfl rfl rfl
theorem bcs (off : Half) : Statement (.bcs off) := fixed _ rfl rfl rfl
theorem bhs (off : Half) : Statement (.bhs off) := fixed _ rfl rfl rfl
theorem bfs (off : Half) : Statement (.bfs off) := fixed _ rfl rfl rfl
theorem bts (off : Half) : Statement (.bts off) := fixed _ rfl rfl rfl
theorem bis (off : Half) : Statement (.bis off) := fixed _ rfl rfl rfl
theorem bvs (off : Half) : Statement (.bvs off) := fixed _ rfl rfl rfl
theorem bzs (off : Half) : Statement (.bzs off) := fixed _ rfl rfl rfl
theorem bss (off : Half) : Statement (.bss off) := fixed _ rfl rfl rfl
theorem addReg (t : TypeTag) (d r : ViewIdx) : Statement (.addReg t d r) := fixed _ rfl rfl rfl
theorem addImm (t : TypeTag) (d : ViewIdx) (imm : Word) : Statement (.addImm t d imm) := immediate t _ _ imm
theorem adcReg (t : TypeTag) (d r : ViewIdx) : Statement (.adcReg t d r) := fixed _ rfl rfl rfl
theorem adcImm (t : TypeTag) (d : ViewIdx) (imm : Word) : Statement (.adcImm t d imm) := immediate t _ _ imm
theorem subReg (t : TypeTag) (d r : ViewIdx) : Statement (.subReg t d r) := fixed _ rfl rfl rfl
theorem subImm (t : TypeTag) (d : ViewIdx) (imm : Word) : Statement (.subImm t d imm) := immediate t _ _ imm
theorem sbcReg (t : TypeTag) (d r : ViewIdx) : Statement (.sbcReg t d r) := fixed _ rfl rfl rfl
theorem sbcImm (t : TypeTag) (d : ViewIdx) (imm : Word) : Statement (.sbcImm t d imm) := immediate t _ _ imm
theorem cmpReg (t : TypeTag) (d r : ViewIdx) : Statement (.cmpReg t d r) := fixed _ rfl rfl rfl
theorem cmpImm (t : TypeTag) (d : ViewIdx) (imm : Word) : Statement (.cmpImm t d imm) := immediate t _ _ imm
theorem andReg (t : TypeTag) (d r : ViewIdx) : Statement (.andReg t d r) := fixed _ rfl rfl rfl
theorem andImm (t : TypeTag) (d : ViewIdx) (imm : Word) : Statement (.andImm t d imm) := immediate t _ _ imm
theorem orReg (t : TypeTag) (d r : ViewIdx) : Statement (.orReg t d r) := fixed _ rfl rfl rfl
theorem orImm (t : TypeTag) (d : ViewIdx) (imm : Word) : Statement (.orImm t d imm) := immediate t _ _ imm
theorem xorReg (t : TypeTag) (d r : ViewIdx) : Statement (.xorReg t d r) := fixed _ rfl rfl rfl
theorem xorImm (t : TypeTag) (d : ViewIdx) (imm : Word) : Statement (.xorImm t d imm) := immediate t _ _ imm
theorem mulReg (t : TypeTag) (d r : ViewIdx) : Statement (.mulReg t d r) := fixed _ rfl rfl rfl
theorem mulImm (t : TypeTag) (d : ViewIdx) (imm : Word) : Statement (.mulImm t d imm) := immediate t _ _ imm
theorem divReg (t : TypeTag) (d r : ViewIdx) : Statement (.divReg t d r) := fixed _ rfl rfl rfl
theorem divImm (t : TypeTag) (d : ViewIdx) (imm : Word) : Statement (.divImm t d imm) := immediate t _ _ imm
theorem modReg (t : TypeTag) (d r : ViewIdx) : Statement (.modReg t d r) := fixed _ rfl rfl rfl
theorem modImm (t : TypeTag) (d : ViewIdx) (imm : Word) : Statement (.modImm t d imm) := immediate t _ _ imm
theorem powReg (t : TypeTag) (d r : ViewIdx) : Statement (.powReg t d r) := fixed _ rfl rfl rfl
theorem powImm (t : TypeTag) (d : ViewIdx) (imm : Word) : Statement (.powImm t d imm) := immediate t _ _ imm
theorem minReg (t : TypeTag) (d r : ViewIdx) : Statement (.minReg t d r) := fixed _ rfl rfl rfl
theorem minImm (t : TypeTag) (d : ViewIdx) (imm : Word) : Statement (.minImm t d imm) := immediate t _ _ imm
theorem maxReg (t : TypeTag) (d r : ViewIdx) : Statement (.maxReg t d r) := fixed _ rfl rfl rfl
theorem maxImm (t : TypeTag) (d : ViewIdx) (imm : Word) : Statement (.maxImm t d imm) := immediate t _ _ imm
theorem inc (t : TypeTag) (d : ViewIdx) : Statement (.inc t d) := fixed _ rfl rfl rfl
theorem dec (t : TypeTag) (d : ViewIdx) : Statement (.dec t d) := fixed _ rfl rfl rfl
theorem tst (t : TypeTag) (d : ViewIdx) : Statement (.tst t d) := fixed _ rfl rfl rfl
theorem com (t : TypeTag) (d : ViewIdx) : Statement (.com t d) := fixed _ rfl rfl rfl
theorem neg (t : TypeTag) (d : ViewIdx) : Statement (.neg t d) := fixed _ rfl rfl rfl
theorem abs (t : TypeTag) (d : ViewIdx) : Statement (.abs t d) := fixed _ rfl rfl rfl
theorem sxt (t : TypeTag) (d : ViewIdx) : Statement (.sxt t d) := fixed _ rfl rfl rfl
theorem zxt (t : TypeTag) (d : ViewIdx) : Statement (.zxt t d) := fixed _ rfl rfl rfl
theorem shl (t : TypeTag) (d : ViewIdx) : Statement (.shl t d) := fixed _ rfl rfl rfl
theorem shr (t : TypeTag) (d : ViewIdx) : Statement (.shr t d) := fixed _ rfl rfl rfl
theorem rol (t : TypeTag) (d : ViewIdx) : Statement (.rol t d) := fixed _ rfl rfl rfl
theorem ror (t : TypeTag) (d : ViewIdx) : Statement (.ror t d) := fixed _ rfl rfl rfl
theorem unassigned07 : Statement (.unassigned07) := fixed _ rfl rfl rfl
theorem unassigned0B : Statement (.unassigned0B) := fixed _ rfl rfl rfl
theorem unassigned0F : Statement (.unassigned0F) := fixed _ rfl rfl rfl
theorem unassigned18 (low : BitVec 3) : Statement (.unassigned18 low) := fixed _ rfl rfl rfl
theorem unassigned28 (low : BitVec 3) : Statement (.unassigned28 low) := fixed _ rfl rfl rfl
theorem unassigned38 (low : BitVec 3) : Statement (.unassigned38 low) := fixed _ rfl rfl rfl
theorem unassigned44 (low : BitVec 2) : Statement (.unassigned44 low) := fixed _ rfl rfl rfl
theorem unassigned48 (low : BitVec 3) : Statement (.unassigned48 low) := fixed _ rfl rfl rfl
theorem unassigned58 (low : BitVec 3) : Statement (.unassigned58 low) := fixed _ rfl rfl rfl
theorem unassignedFC (low : BitVec 2) : Statement (.unassignedFC low) := fixed _ rfl rfl rfl

end Sys2Proof.Laws.EncodedLength
end

