-- ==== Sys2Proof/Laws/Width.lean ====
section
/-! SUPPORT. Masks, signs and views as numbers (00_scope.md R9, 10_state.md R23). -/

namespace Sys2Proof

theorem Width.bits_eq (w : Width) : w.bits = 8 * w.bytes := by cases w <;> rfl
theorem Width.bits_pos (w : Width) : 0 < w.bits := by cases w <;> decide
theorem Width.bits_le (w : Width) : w.bits ≤ 32 := by cases w <;> decide

/-- Masking is reduction modulo 2^W (R9). -/
theorem Width.toNat_and_mask (w : Width) (v : Word) : (v &&& w.mask).toNat = v.toNat % 2 ^ w.bits := by
  have key : ∀ n : Nat, v.toNat &&& (2 ^ n - 1) = v.toNat % 2 ^ n := Nat.and_two_pow_sub_one_eq_mod v.toNat
  cases w
  · exact key 8
  · exact key 16
  · exact key 32

theorem Width.mask_toNat (w : Width) : w.mask.toNat = 2 ^ w.bits - 1 := by cases w <;> rfl

/-- A bit of a masked value. -/
theorem Width.getLsbD_and_mask (w : Width) (v : Word) (k : Nat) :
    (v &&& w.mask).getLsbD k = (decide (k < w.bits) && v.getLsbD k) := by
  simp only [BitVec.getLsbD, Width.toNat_and_mask, Nat.testBit_mod_two_pow]

/-- A value below 2^W is its own mask. -/
theorem Width.and_mask_of_lt {w : Width} {v : Word} (h : v.toNat < 2 ^ w.bits) : v &&& w.mask = v := by
  apply BitVec.eq_of_toNat_eq
  rw [Width.toNat_and_mask, Nat.mod_eq_of_lt h]

/-- The sign is the top bit of the width (R9). -/
theorem Width.sign_eq_getLsbD (w : Width) (v : Word) : w.sign v = v.getLsbD (w.bits - 1) := by
  have key : ∀ (k : Nat), k < 32 → decide (v &&& (1#32 <<< k) ≠ 0) = v.getLsbD k := by
    intro k hk
    have hbit : ∀ i, i < 32 → ((v &&& (1#32 <<< k)).getLsbD i = (decide (i = k) && v.getLsbD k)) := by
      intro i hi
      rw [BitVec.getLsbD_and, BitVec.getLsbD_shiftLeft, BitVec.getLsbD_one]
      by_cases hik : i = k
      · subst hik; simp [hi]
      · have : ¬ (¬ i < k ∧ i - k = 0) := by omega
        by_cases hlt : i < k
        · simp [hlt, hik]
        · have h0 : i - k ≠ 0 := by omega
          simp [hik, h0]
    cases hv : v.getLsbD k
    · have hz : v &&& (1#32 <<< k) = 0 := by
        apply BitVec.eq_of_getLsbD_eq
        intro i hi
        rw [hbit i hi, hv]
        simp
      simp [hz]
    · have hne : v &&& (1#32 <<< k) ≠ 0 := by
        intro h
        have := hbit k hk
        rw [h, hv] at this
        simp at this
      exact decide_eq_true hne
  cases w
  · exact key 7 (by decide)
  · exact key 15 (by decide)
  · exact key 31 (by decide)

/-- The sign of a value of the width says whether it is at least 2^(W-1). -/
theorem Width.sign_eq_decide {w : Width} {v : Word} (h : v.toNat < 2 ^ w.bits) :
    w.sign v = decide (2 ^ (w.bits - 1) ≤ v.toNat) := by
  have hp : (2 : Nat) ^ w.bits = 2 ^ (w.bits - 1) * 2 := by
    rw [← Nat.pow_succ, Nat.succ_eq_add_one, Nat.sub_add_cancel w.bits_pos]
  rw [Width.sign_eq_getLsbD, BitVec.getLsbD, Nat.testBit_eq_decide_div_mod_eq]
  rw [hp] at h
  have hlt : v.toNat / 2 ^ (w.bits - 1) < 2 := Nat.div_lt_of_lt_mul h
  by_cases hge : 2 ^ (w.bits - 1) ≤ v.toNat
  · have : 1 ≤ v.toNat / 2 ^ (w.bits - 1) := (Nat.one_le_div_iff (Nat.two_pow_pos _)).mpr hge
    have h1 : v.toNat / 2 ^ (w.bits - 1) = 1 := by omega
    simp [h1, hge]
  · have h0 : v.toNat / 2 ^ (w.bits - 1) = 0 := Nat.div_eq_of_lt (Nat.not_le.mp hge)
    simp [h0, hge]

namespace Machine

/-- A view read at a width is below 2^W (R23). -/
theorem Arch.read_lt (x : Arch) (k : ViewClass) (w : Width) (i : ViewIdx) : (x.read k w i).toNat < 2 ^ w.bits := by
  have hpos : 0 < 2 ^ w.bits := Nat.two_pow_pos _
  have hmask : ∀ v : Word, (v &&& w.mask).toNat < 2 ^ w.bits := fun v => by
    rw [Width.toNat_and_mask]; exact Nat.mod_lt _ hpos
  unfold Arch.read
  cases viewOf i with
  | low r => exact hmask _
  | high r =>
    cases w with
    | byte => exact lt_of_le_of_lt (Nat.and_le_right (n := (x.reg r >>> 8).toNat) (m := 0xFF)) (by decide)
    | word =>
      show (x.reg r >>> 16).toNat < 2 ^ 16
      have := (x.reg r).isLt
      simp only [BitVec.toNat_ushiftRight, Nat.shiftRight_eq_div_pow]
      omega
    | long => exact hpos
  | status =>
    cases k
    · exact hmask _
    · exact hpos
  | outOfRange => exact hpos

end Machine

end Sys2Proof
end

