-- ==== Sys2Proof/Tests/Slice0.lean ====
section
/-! SUPPORT. Tests. Every expected result is the spec's: the rows of 95_test_vectors.md, or the encoding tables of
30_encoding.md. A test runs one step. At the end, a witness for the hypotheses of each statement that has some. -/

namespace Sys2Proof.Tests

open Sys2Proof.Machine Sys2Proof.Claims

/-! ## Well-formedness: a term no byte stream encodes is refused, its neighbour is not (30_encoding.md R96) -/

theorem test_wf_byte_immediate : (Instr.addImm .byte 0 0x100).wf = false ∧ (Instr.addImm .byte 0 0xFF).wf = true := by decide
theorem test_wf_word_immediate :
    (Instr.cmpImm .word 0 0x10000).wf = false ∧ (Instr.cmpImm .word 0 0xFFFF).wf = true := by decide
theorem test_wf_long_immediate : (Instr.movImm .long 8 0xFFFFFFFF).wf = true := by decide
theorem test_wf_float_immediate : (Instr.movImm .float 0 1).wf = false ∧ (Instr.movImm .float 0 0).wf = true := by decide

/-! ## Decoding: words written out from 30_encoding.md -/

/-- The bytes decode to the instruction, with nothing left over, and the instruction encodes to the bytes. -/
def reads (bs : List Byte) (i : Instr) : Bool :=
  (match decodeStream bs with
   | .ok (j, rest) => decide (j = i) && decide (rest = [])
   | .error _ => false) && decide (encode i = bs)

/-- The control group (R98). -/
theorem test_decode_control :
    reads [0b00000000] .nop = true ∧
    reads [0b00000001] .hlt = true ∧
    reads [0b00000010] .wfi = true ∧
    reads [0b00000011] .ret = true ∧
    reads [0b00000100] .rfi = true ∧
    reads [0b00000101] .irq = true ∧
    reads [0b00000110] .nmi = true ∧
    reads [0b00001000, 0x05] (.andsReg 5) = true ∧
    reads [0b00001001, 0x0F] (.orsReg 15) = true ∧
    reads [0b00001010, 0x08] (.xorsReg 8) = true ∧
    reads [0b00001100, 0xF7] (.andsImm 0xF7) = true ∧
    reads [0b00001101, 0x41] (.orsImm 0x41) = true ∧
    reads [0b00001110, 0xFF] (.xorsImm 0xFF) = true := by decide

/-- The data-move group (R99): 0x10 to 0x57 by bits 7:2, the type tag in bits 1:0; operand byte s:d (R93). -/
theorem test_decode_data_move :
    reads [0b00010000, 0b00000011, 0xFC, 0x0F] (.lodDirect .byte 3 0x0FFC) = true ∧
    reads [0b00010101, 0b00100100, 0xFC, 0x0F] (.lodIndexed .word 4 2 0x0FFC) = true ∧
    reads [0b00100010, 0b00000100, 0xFC, 0x0F] (.stoDirect .long 4 0x0FFC) = true ∧
    reads [0b00100110, 0b00110000, 0x00, 0x80] (.stoIndexed .long 0 3 0x8000) = true ∧
    reads [0b00110001, 0b00001000] (.movReg .word 8 0) = true ∧
    reads [0b00110101, 0b00000001, 0xCD, 0xAB] (.movImm .word 1 0xABCD) = true ∧
    reads [0b01000000, 0b10000000] (.swp .byte 0 8) = true ∧
    reads [0b01010010, 0b00001000] (.psh .long 8) = true ∧
    reads [0b01010101, 0b00000001] (.pop .word 1) = true := by decide

/-- The jumps and calls (R100): bit 0 long, bit 1 call, bit 2 absolute. -/
theorem test_decode_transfer :
    reads [0b01100000, 0xFD, 0xFF] (.jmp 0xFFFD) = true ∧
    reads [0b01100001, 0x00, 0x00, 0x01, 0x00] (.jmpl 0x00010000) = true ∧
    reads [0b01100010, 0x10, 0x00] (.jsr 0x0010) = true ∧
    reads [0b01100011, 0xFB, 0xFF, 0xFF, 0xFF] (.jsrl 0xFFFFFFFB) = true ∧
    reads [0b01100100, 0x00, 0x80] (.jmpa 0x8000) = true ∧
    reads [0b01100101, 0x78, 0x56, 0x34, 0x12] (.jmpal 0x12345678) = true ∧
    reads [0b01100110, 0x20, 0x10] (.jsra 0x1020) = true ∧
    reads [0b01100111, 0x00, 0x00, 0x02, 0x00] (.jsral 0x00020000) = true := by decide

/-- The branches (R101): bit 3 the sense, bits 2:0 the flag. -/
theorem test_decode_branches :
    reads [0b01110000, 0xFB, 0xFF] (.bcc 0xFFFB) = true ∧
    reads [0b01110001, 0xFB, 0xFF] (.bhc 0xFFFB) = true ∧
    reads [0b01110010, 0xFB, 0xFF] (.bfc 0xFFFB) = true ∧
    reads [0b01110011, 0xFB, 0xFF] (.btc 0xFFFB) = true ∧
    reads [0b01110100, 0xFB, 0xFF] (.bic 0xFFFB) = true ∧
    reads [0b01110101, 0xFB, 0xFF] (.bvc 0xFFFB) = true ∧
    reads [0b01110110, 0xFB, 0xFF] (.bzc 0xFFFB) = true ∧
    reads [0b01110111, 0xFB, 0xFF] (.bsc 0xFFFB) = true ∧
    reads [0b01111000, 0xFB, 0xFF] (.bcs 0xFFFB) = true ∧
    reads [0b01111001, 0xFB, 0xFF] (.bhs 0xFFFB) = true ∧
    reads [0b01111010, 0xFB, 0xFF] (.bfs 0xFFFB) = true ∧
    reads [0b01111011, 0xFB, 0xFF] (.bts 0xFFFB) = true ∧
    reads [0b01111100, 0xFB, 0xFF] (.bis 0xFFFB) = true ∧
    reads [0b01111101, 0xFB, 0xFF] (.bvs 0xFFFB) = true ∧
    reads [0b01111110, 0xFB, 0xFF] (.bzs 0xFFFB) = true ∧
    reads [0b01111111, 0xFB, 0xFF] (.bss 0xFFFB) = true := by decide

/-- The binary group (R102): bits 7:3 the operation, bit 2 the immediate form, bits 1:0 the type tag. -/
theorem test_decode_binary_1 :
    reads [0b10000000, 0b00010010] (.addReg .byte 2 1) = true ∧
    reads [0b10000101, 0b00001001, 0xCD, 0xAB] (.addImm .word 9 0xABCD) = true ∧
    reads [0b10001001, 0b00010010] (.adcReg .word 2 1) = true ∧
    reads [0b10001110, 0b00001001, 0x78, 0x56, 0x34, 0x12] (.adcImm .long 9 0x12345678) = true ∧
    reads [0b10010010, 0b00010010] (.subReg .long 2 1) = true ∧
    reads [0b10010100, 0b00001001, 0x21] (.subImm .byte 9 0x21) = true ∧
    reads [0b10011000, 0b00010010] (.sbcReg .byte 2 1) = true ∧
    reads [0b10011101, 0b00001001, 0xCD, 0xAB] (.sbcImm .word 9 0xABCD) = true ∧
    reads [0b10100001, 0b00010010] (.cmpReg .word 2 1) = true ∧
    reads [0b10100110, 0b00001001, 0x78, 0x56, 0x34, 0x12] (.cmpImm .long 9 0x12345678) = true ∧
    reads [0b10101010, 0b00010010] (.andReg .long 2 1) = true ∧
    reads [0b10101100, 0b00001001, 0x21] (.andImm .byte 9 0x21) = true ∧
    reads [0b10110000, 0b00010010] (.orReg .byte 2 1) = true ∧
    reads [0b10110101, 0b00001001, 0xCD, 0xAB] (.orImm .word 9 0xABCD) = true := by decide

/-- The binary group (R102): bits 7:3 the operation, bit 2 the immediate form, bits 1:0 the type tag. -/
theorem test_decode_binary_2 :
    reads [0b10111001, 0b00010010] (.xorReg .word 2 1) = true ∧
    reads [0b10111110, 0b00001001, 0x78, 0x56, 0x34, 0x12] (.xorImm .long 9 0x12345678) = true ∧
    reads [0b11000010, 0b00010010] (.mulReg .long 2 1) = true ∧
    reads [0b11000100, 0b00001001, 0x21] (.mulImm .byte 9 0x21) = true ∧
    reads [0b11001000, 0b00010010] (.divReg .byte 2 1) = true ∧
    reads [0b11001101, 0b00001001, 0xCD, 0xAB] (.divImm .word 9 0xABCD) = true ∧
    reads [0b11010001, 0b00010010] (.modReg .word 2 1) = true ∧
    reads [0b11010110, 0b00001001, 0x78, 0x56, 0x34, 0x12] (.modImm .long 9 0x12345678) = true ∧
    reads [0b11011010, 0b00010010] (.powReg .long 2 1) = true ∧
    reads [0b11011100, 0b00001001, 0x21] (.powImm .byte 9 0x21) = true ∧
    reads [0b11100000, 0b00010010] (.minReg .byte 2 1) = true ∧
    reads [0b11100101, 0b00001001, 0xCD, 0xAB] (.minImm .word 9 0xABCD) = true ∧
    reads [0b11101001, 0b00010010] (.maxReg .word 2 1) = true ∧
    reads [0b11101110, 0b00001001, 0x78, 0x56, 0x34, 0x12] (.maxImm .long 9 0x12345678) = true := by decide

/-- The unary group (R103); type tag in bits 5:4 of the operand byte (R94). -/
theorem test_decode_unary :
    reads [0b11110000, 0b00000101] (.inc .byte 5) = true ∧
    reads [0b11110001, 0b00010101] (.dec .word 5) = true ∧
    reads [0b11110010, 0b00100101] (.tst .long 5) = true ∧
    reads [0b11110011, 0b00000101] (.com .byte 5) = true ∧
    reads [0b11110100, 0b00010101] (.neg .word 5) = true ∧
    reads [0b11110101, 0b00100101] (.abs .long 5) = true ∧
    reads [0b11110110, 0b00000101] (.sxt .byte 5) = true ∧
    reads [0b11110111, 0b00010101] (.zxt .word 5) = true ∧
    reads [0b11111000, 0b00100101] (.shl .long 5) = true ∧
    reads [0b11111001, 0b00000101] (.shr .byte 5) = true ∧
    reads [0b11111010, 0b00010101] (.rol .word 5) = true ∧
    reads [0b11111011, 0b00100101] (.ror .long 5) = true := by decide

/-- The unassigned opcodes (R110). -/
theorem test_decode_unassigned :
    reads [0x07] .unassigned07 = true ∧
    reads [0x0B] .unassigned0B = true ∧
    reads [0x0F] .unassigned0F = true ∧
    reads [0x1F] (.unassigned18 7) = true ∧
    reads [0x28] (.unassigned28 0) = true ∧
    reads [0x3A] (.unassigned38 2) = true ∧
    reads [0x47] (.unassigned44 3) = true ∧
    reads [0x48] (.unassigned48 0) = true ∧
    reads [0x5F] (.unassigned58 7) = true ∧
    reads [0xFC] (.unassignedFC 0) = true := by decide

/-- Ignored bits change nothing: the alias 0x68 of JMP (R112, 42_control_transfer.md R189), bits 7:6 of a unary operand byte
(44_alu_unary.md R270), the high nibble of an immediate form. -/
theorem test_decode_ignored_bits :
    decode ⟨0x68, 0x10, 0x00, 0, 0, 0⟩ = .jmp 0x0010 ∧ decode ⟨0xF0, 0xC0, 0, 0, 0, 0⟩ = .inc .byte 0 ∧
    decode ⟨0x84, 0xF0, 0x21, 0, 0, 0⟩ = .addImm .byte 0 0x21 := by decide

/-- Bytes that run out before the instruction does are refused by name. -/
theorem test_decode_truncated :
    decodeStream [] = .error .truncated ∧ decodeStream [0x36, 0x08, 0x78, 0x56, 0x34] = .error .truncated := by decide

/-- The type tag Float (R111): no immediate byte is read (log 8). -/
theorem test_decode_float :
    decode ⟨0x87, 0x00, 0x21, 0, 0, 0⟩ = .addImm .float 0 0 ∧ decode ⟨0xF0, 0x30, 0, 0, 0, 0⟩ = .inc .float 0 := by decide

/-! ## One step of each instruction -/

/-- The common start state of 95_test_vectors.md, with what a row says otherwise. -/
def start (code : List Byte) (a b c d : Word := 0) (sp : Word := 0x8000) (sb : Byte := 0) : State :=
  ({ State.reset with arch := { State.reset.arch with a := a, b := b, c := c, d := d, sp := sp, sb := sb } }).load 0x1000 code

/-- The step runs and what comes of it meets a check. -/
def gives (s : State) (check : State → Bool) : Bool :=
  match step s with
  | .next t => check t
  | _ => false

/-- The step is refused for a reason. -/
def refuses (s : State) (r : Refusal) : Bool :=
  match step s with
  | .refused q => decide (q = r)
  | _ => false

/-- A row of section 2.5 or 2.6: A and B, sb before; A, sb and pc after. Nothing else changes. -/
def alu (code : List Byte) (a b : Word) (sb : Byte) (a' : Word) (sb' : Byte) (len : Word) : Bool :=
  gives (start code a b 0 0 0x8000 sb) fun t =>
    decide (t = { start code a b 0 0 0x8000 sb with
      arch := { (start code a b 0 0 0x8000 sb).arch with a := a', sb := sb', pc := 0x1000 + len } })

/-- A row of section 2.4: pc after a branch; nothing else changes. -/
def branch (code : List Byte) (sb : Byte) (pc : Word) : Bool :=
  gives (start code 0 0 0 0 0x8000 sb) fun t =>
    decide (t = { start code 0 0 0 0 0x8000 sb with arch := { (start code 0 0 0 0 0x8000 sb).arch with pc := pc } })

/-- A row of section 2.3: pc and sp after a jump or call, and the long at sp where it pushes. -/
def transfer (code : List Byte) (pc sp : Word) (pushed : Option Word) : Bool :=
  gives (start code) fun t =>
    decide (t.arch = { (start code).arch with pc := pc, sp := sp }) &&
      match pushed with
      | none => decide (t.mem = (start code).mem)
      | some v => decide (t.mem = (start code).mem.writeBytes sp (leBytes 4 v))

/-- A state that stays as it is. -/
def stays (code : List Byte) : Bool := gives (start code) fun t => decide (t = start code)

/-! ### Control group (section 2.1) -/

theorem test_nop : gives (start [0x00]) (fun t => decide (t.arch = { (start [0x00]).arch with pc := 0x1001 })) = true := by decide
theorem test_hlt : stays [0x01] = true := by decide
theorem test_wfi : stays [0x02] = true := by decide
theorem test_ret :
    gives ((start [0x03] 0 0 0 0 0x7FFC).load 0x7FFC [0x09, 0x10, 0x00, 0x00])
      (fun t => decide (t.arch.pc = 0x1009 ∧ t.arch.sp = 0x8000)) = true := by decide
theorem test_ret_across_top :
    gives (start [0x03] 0 0 0 0 0xFFFFFFFE) (fun t => decide (t.arch.pc = 0x0000FFFF ∧ t.arch.sp = 2)) = true := by decide
theorem test_rfi : refuses (start [0x04]) .returnFromInterrupt = true := by decide
theorem test_irq : refuses (start [0x05]) .interruptRequest = true := by decide
theorem test_nmi : refuses (start [0x06]) .nonMaskableInterrupt = true := by decide
theorem test_ands : alu [0x08, 0x00] 0xF7 0 0xA9 0xF7 0xA1 2 = true := by decide
theorem test_ands_index_9 : alu [0x08, 0x09] 0 0 0xFF 0 0x00 2 = true := by decide
theorem test_ors : alu [0x09, 0x05] 0 0x4100 0x00 0 0x41 2 = true := by decide
theorem test_xors : alu [0x0A, 0x00] 0x01 0 0x81 0x01 0x80 2 = true := by decide
theorem test_ands_imm : alu [0x0C, 0xF7] 0 0 0xA9 0 0xA1 2 = true := by decide
theorem test_ors_imm : alu [0x0D, 0x01] 0 0 0x00 0 0x01 2 = true := by decide
theorem test_xors_imm : alu [0x0E, 0xFF] 0 0 0x41 0 0xBE 2 = true := by decide

/-! ### Data move (section 2.2) -/

theorem test_lod_negative : alu [0x10, 0x00, 0xFC, 0xFF] 0 0 0 0x10 0 4 = true := by decide
theorem test_lod_straddles_the_end :
    gives ({ start [0x12, 0x00, 0xFC, 0x0F] with mem := { (start [0x12, 0x00, 0xFC, 0x0F]).mem with size := 0x2002 } }.load
      0x2000 [0xAA, 0xBB]) (fun t => decide (t.arch.a = 0xFFFFBBAA)) = true := by decide
theorem test_lod_indexed :
    gives ((start [0x15, 0x24, 0xFC, 0x0F] 0 0 0x10).load 0x2010 [0x34, 0x12])
      (fun t => decide (t.arch.a = 0x12340000 ∧ t.arch.pc = 0x1004)) = true := by decide
theorem test_sto :
    gives (start [0x20, 0x00, 0xFC, 0x0F] 0x11223344)
      (fun t => decide (t.mem = ((start [0x20, 0x00, 0xFC, 0x0F]).mem.setByte 0x2000 0x44) ∧ t.arch.pc = 0x1004)) = true := by
  decide
theorem test_sto_indexed :
    gives (start [0x26, 0x30, 0xFC, 0x0F] 0x11223344 0 0 0xFFFFFFFF)
      (fun t => decide (t.mem = (start [0x26, 0x30, 0xFC, 0x0F]).mem.writeBytes 0x1FFF [0x44, 0x33, 0x22, 0x11])) = true := by
  decide
theorem test_mov_high_byte :
    gives (start [0x30, 0x05] 0x12345678 0xAAAAAAAA) (fun t => decide (t.arch.b = 0xAAAA78AA ∧ t.arch.pc = 0x1002)) = true := by
  decide
theorem test_mov_to_sb : alu [0x31, 0x08] 0x12C3 0 0 0x12C3 0xC3 2 = true := by decide
theorem test_mov_imm :
    gives (start [0x35, 0x01, 0xCD, 0xAB] 0 0x11111111) (fun t => decide (t.arch.b = 0x1111ABCD ∧ t.arch.pc = 0x1004)) = true := by
  decide
theorem test_mov_imm_index_9 : alu [0x34, 0x09, 0x55] 0 0 0 0 0 3 = true := by decide
theorem test_swp_halves : alu [0x41, 0x40] 0x11112222 0 0 0x22221111 0 2 = true := by decide
theorem test_swp_not_sb : alu [0x40, 0x80] 0xFF 0 0x41 0x00 0x41 2 = true := by decide
theorem test_psh :
    gives (start [0x51, 0x00] 0x12345678)
      (fun t => decide (t.arch.sp = 0x7FFE ∧ t.mem = (start [0x51, 0x00]).mem.writeBytes 0x7FFE [0x78, 0x56])) = true := by decide
theorem test_psh_sb_moves_one_byte :
    gives (start [0x52, 0x08] 0 0 0 0 0x8000 0x81)
      (fun t => decide (t.arch.sp = 0x7FFF ∧ t.mem = (start [0x52, 0x08]).mem.writeBytes 0x7FFF [0x81])) = true := by decide
theorem test_pop :
    gives ((start [0x55, 0x01] 0 0xFFFFFFFF 0 0 0x7FF0).load 0x7FF0 [0x34, 0x12])
      (fun t => decide (t.arch.b = 0xFFFF1234 ∧ t.arch.sp = 0x7FF2)) = true := by decide
theorem test_pop_sb :
    gives ((start [0x54, 0x08] 0 0 0 0 0x7FF0).load 0x7FF0 [0xC3])
      (fun t => decide (t.arch.sb = 0xC3 ∧ t.arch.sp = 0x7FF1)) = true := by decide
theorem test_float_move : refuses (start [0x13, 0x00, 0x00, 0x00]) .floatDataMove = true := by decide

/-! ### Jumps, calls and branches (sections 2.3, 2.4) -/

theorem test_jmp : transfer [0x60, 0xFD, 0xFF] 0x1000 0x8000 none = true := by decide
theorem test_jmpl : transfer [0x61, 0x00, 0x00, 0x01, 0x00] 0x11005 0x8000 none = true := by decide
theorem test_jsr : transfer [0x62, 0x10, 0x00] 0x1013 0x7FFC (some 0x1003) = true := by decide
theorem test_jsrl : transfer [0x63, 0xFB, 0xFF, 0xFF, 0xFF] 0x1000 0x7FFC (some 0x1005) = true := by decide
theorem test_jmpa : transfer [0x64, 0x00, 0x80] 0x8000 0x8000 none = true := by decide
theorem test_jmpal : transfer [0x65, 0x78, 0x56, 0x34, 0x12] 0x12345678 0x8000 none = true := by decide
theorem test_jsra : transfer [0x66, 0x20, 0x10] 0x1020 0x7FFC (some 0x1003) = true := by decide
theorem test_jsral : transfer [0x67, 0x00, 0x00, 0x02, 0x00] 0x20000 0x7FFC (some 0x1005) = true := by decide
theorem test_jsr_across_top :
    gives ((start [0x62, 0x10, 0x00] 0 0 0 0 2).load 0 [7, 7, 7])
      (fun t => decide (t.arch.sp = 0xFFFFFFFE ∧ t.mem.readBytes 0xFFFFFFFE 5 = [0xFF, 0xFF, 0, 0, 7])) = true := by decide

theorem test_bcc : branch [0x70, 0x04, 0x00] 0x00 0x1007 = true := by decide
theorem test_bcc_not_taken : branch [0x70, 0x04, 0x00] 0x01 0x1003 = true := by decide
theorem test_bhc : branch [0x71, 0x02, 0x00] 0x00 0x1005 = true := by decide
theorem test_bfc : branch [0x72, 0x02, 0x00] 0x04 0x1003 = true := by decide
theorem test_btc : branch [0x73, 0x02, 0x00] 0x00 0x1005 = true := by decide
theorem test_bic : branch [0x74, 0x02, 0x00] 0x00 0x1005 = true := by decide
theorem test_bvc : branch [0x75, 0x02, 0x00] 0x20 0x1003 = true := by decide
theorem test_bzc : branch [0x76, 0x10, 0x00] 0x40 0x1003 = true := by decide
theorem test_bsc : branch [0x77, 0x02, 0x00] 0x7F 0x1005 = true := by decide
theorem test_bcs : branch [0x78, 0xF0, 0xFF] 0x01 0x0FF3 = true := by decide
theorem test_bhs : branch [0x79, 0x02, 0x00] 0x02 0x1005 = true := by decide
theorem test_bfs : branch [0x7A, 0x02, 0x00] 0x00 0x1003 = true := by decide
theorem test_bts : branch [0x7B, 0x04, 0x00] 0x08 0x1007 = true := by decide
theorem test_bis : branch [0x7C, 0x02, 0x00] 0x10 0x1005 = true := by decide
theorem test_bvs : branch [0x7D, 0x02, 0x00] 0x00 0x1003 = true := by decide
theorem test_bzs : branch [0x7E, 0x10, 0x00] 0x40 0x1013 = true := by decide
theorem test_bss : branch [0x7F, 0x00, 0x80] 0x80 0xFFFF9003 = true := by decide

/-! ### Binary arithmetic (section 2.5): a row in the register form, a row in the immediate form -/

theorem test_add : alu [0x80, 0x10] 0x5A5A5A80 0xC3C3C380 0x00 0x5A5A5A00 0x61 2 = true := by decide
theorem test_add_imm : alu [0x84, 0x00, 0x5F] 0x5A5A5A21 0 0x00 0x5A5A5A80 0xA0 3 = true := by decide
theorem test_adc : alu [0x88, 0x10] 0x5A5A5AFF 0xC3C3C300 0x01 0x5A5A5A00 0x41 2 = true := by decide
theorem test_adc_imm : alu [0x8E, 0x00, 0x00, 0x00, 0x00, 0x00] 0x00000000 0 0x01 0x00000001 0x00 6 = true := by decide
theorem test_sub : alu [0x90, 0x10] 0x5A5A5A01 0xC3C3C380 0x00 0x5A5A5A81 0xA0 2 = true := by decide
theorem test_sub_imm : alu [0x94, 0x00, 0x80] 0x5A5A5A80 0 0x00 0x5A5A5A00 0x41 3 = true := by decide
theorem test_sbc : alu [0x99, 0x10] 0x5A5A8000 0xC3C30000 0x01 0x5A5A7FFF 0x20 2 = true := by decide
theorem test_sbc_imm : alu [0x9C, 0x00, 0x00] 0x5A5A5A00 0 0x01 0x5A5A5AFF 0x81 3 = true := by decide
theorem test_cmp : alu [0xA2, 0x10] 0x80000000 0x7FFFFFFF 0x00 0x80000000 0x20 2 = true := by decide
theorem test_cmp_imm : alu [0xA4, 0x00, 0x05] 0x5A5A5A03 0 0x00 0x5A5A5A03 0x81 3 = true := by decide
theorem test_and : alu [0xA8, 0x10] 0x5A5A5AF0 0xC3C3C30F 0x21 0x5A5A5A00 0x61 2 = true := by decide
theorem test_and_imm : alu [0xAD, 0x00, 0xFF, 0xFF] 0x5A5A8001 0 0x00 0x5A5A8001 0x80 4 = true := by decide
theorem test_or : alu [0xB2, 0x10] 0x80000000 0x00000001 0x00 0x80000001 0x80 2 = true := by decide
theorem test_or_imm : alu [0xB4, 0x00, 0x00] 0x5A5A5A00 0 0x01 0x5A5A5A00 0x41 3 = true := by decide
theorem test_xor : alu [0xB8, 0x10] 0x5A5A5AFF 0xC3C3C3FF 0x20 0x5A5A5A00 0x60 2 = true := by decide
theorem test_xor_imm : alu [0xBD, 0x00, 0x00, 0xFF] 0x5A5A00FF 0 0x00 0x5A5AFFFF 0x80 4 = true := by decide
theorem test_mul : alu [0xC2, 0x10] 0x00010000 0x00010000 0x00 0x00000000 0x61 2 = true := by decide
theorem test_mul_imm : alu [0xC4, 0x00, 0x10] 0x5A5A5A10 0 0x00 0x5A5A5A00 0x61 3 = true := by decide
theorem test_div : alu [0xCA, 0x10] 0x80000000 0xFFFFFFFF 0x08 0x80000000 0x88 2 = true := by decide
theorem test_div_imm : alu [0xCC, 0x00, 0x00] 0x5A5A5A37 0 0x00 0x5A5A5AFF 0xA9 3 = true := by decide
theorem test_mod : alu [0xD0, 0x10] 0x5A5A5AF9 0xC3C3C302 0x00 0x5A5A5AFF 0x80 2 = true := by decide
theorem test_mod_imm : alu [0xD5, 0x00, 0x00, 0x00] 0x5A5A0005 0 0x00 0x5A5AFFFF 0xA9 4 = true := by decide
theorem test_pow : alu [0xDA, 0x10] 0x00000003 0x00000014 0x00 0xCFD41B91 0x80 2 = true := by decide
theorem test_pow_imm : alu [0xDC, 0x00, 0xFF] 0x5A5A5A02 0 0xA1 0x5A5A5A00 0x40 3 = true := by decide
theorem test_min : alu [0xE0, 0x10] 0x5A5A5A80 0xC3C3C37F 0x00 0x5A5A5A7F 0x00 2 = true := by decide
theorem test_min_imm : alu [0xE4, 0x00, 0xFF] 0x5A5A5A00 0 0x00 0x5A5A5A00 0x40 3 = true := by decide
theorem test_max : alu [0xE8, 0x10] 0x5A5A5A80 0xC3C3C37F 0x00 0x5A5A5A80 0x80 2 = true := by decide
theorem test_max_imm : alu [0xED, 0x00, 0x00, 0x00] 0x5A5A0000 0 0x00 0x5A5A0000 0x40 4 = true := by decide
theorem test_flags_without_register : alu [0x84, 0x09, 0x80] 0 0 0 0 0x80 3 = true := by decide
theorem test_div_high_byte_by_zero : alu [0xCC, 0x04, 0x00] 0x1234 0 0 0xFF34 0xA9 3 = true := by decide
theorem test_float_binop : refuses (start [0x83, 0x00]) .floatBinop = true := by decide

/-! ### Unary arithmetic (section 2.6) -/

theorem test_inc : alu [0xF0, 0x10] 0x5A5AFFFF 0 0x21 0x5A5A0000 0x61 2 = true := by decide
theorem test_dec : alu [0xF1, 0x00] 0x5A5A5A01 0 0x01 0x5A5A5A00 0x41 2 = true := by decide
theorem test_tst : alu [0xF2, 0x00] 0x5A5A5AFF 0 0x00 0x5A5A5AFF 0x40 2 = true := by decide
theorem test_com : alu [0xF3, 0x00] 0x5A5A5AFF 0 0x21 0x5A5A5A00 0x61 2 = true := by decide
theorem test_neg : alu [0xF4, 0x00] 0x5A5A5A80 0 0x00 0x5A5A5A80 0x80 2 = true := by decide
theorem test_abs : alu [0xF5, 0x00] 0x5A5A5AFB 0 0x00 0x5A5A5A05 0x00 2 = true := by decide
theorem test_abs_2 : alu [0xF5, 0x00] 0x5A5A5A80 0 0x00 0x5A5A5A80 0x80 2 = true := by decide
theorem test_sxt : alu [0xF6, 0x10] 0x5A5A0080 0 0x00 0x5A5AFF80 0x80 2 = true := by decide
theorem test_sxt_2 : alu [0xF6, 0x20] 0xABCD1234 0 0x00 0x00001234 0x00 2 = true := by decide
theorem test_zxt : alu [0xF7, 0x10] 0x5A5AFF80 0 0x00 0x5A5A0080 0x00 2 = true := by decide
theorem test_shl : alu [0xF8, 0x00] 0x5A5A5A81 0 0x00 0x5A5A5A02 0x01 2 = true := by decide
theorem test_shr : alu [0xF9, 0x00] 0x5A5A5A81 0 0x01 0x5A5A5A40 0x00 2 = true := by decide
theorem test_rol : alu [0xFA, 0x20] 0x80000001 0 0x00 0x00000003 0x01 2 = true := by decide
theorem test_ror : alu [0xFB, 0x00] 0x5A5A5A81 0 0x00 0x5A5A5AC0 0x81 2 = true := by decide
theorem test_float_unop : refuses (start [0xF0, 0x30]) .floatUnop = true := by decide

/-! ### Unassigned opcodes (40_control.md R143, 41_data_move.md R162, 44_alu_unary.md R284) -/

theorem test_unassigned_07 : stays [0x07] = true := by decide
theorem test_unassigned_0B : stays [0x0B] = true := by decide
theorem test_unassigned_0F : stays [0x0F] = true := by decide
theorem test_unassigned_18 : stays [0x18] = true := by decide
theorem test_unassigned_28 : stays [0x28] = true := by decide
theorem test_unassigned_38 : stays [0x38] = true := by decide
theorem test_unassigned_44 : stays [0x44] = true := by decide
theorem test_unassigned_48 : stays [0x48] = true := by decide
theorem test_unassigned_58 : stays [0x58] = true := by decide
theorem test_unassigned_FC : stays [0xFC] = true := by decide

/-- The table word of an instruction, placed at pc, is the next step's instruction. -/
theorem test_fetch_word :
    decodeTableWord 24 0x210084 = some (.addImm .byte 0 0x21) ∧
    gives (State.reset.withFetchWord 24 0x210084) (fun t => decide (t.arch.a = 0x21 ∧ t.arch.pc = 0x1003)) = true := by decide

/-! ## Witnesses: states and operands that meet the hypotheses of the statements -/

/-- A state over a memory of 16 bytes, with registers that tell views apart. -/
def small (size : Nat := 16) (sp : Word := 8) : State where
  arch :=
    { pc := 0, sp := sp, sb := 0x08, a := 0x80000007, b := 0x80000007, c := 0xFFFFFFFE, d := 3,
      f0 := 1, f1 := 2, f2 := 3, f3 := 4 }
  mem := { size := size, cells := [] }
  modSign := .dividend

theorem witness_EncodedInstructionsDecodeBack :
    (Instr.movImm .long 8 0xFFFFFFFF).wf = true ∧ (Instr.addImm .byte 0 0xFF).wf = true ∧
    (Instr.addImm .word 0 0xFFFF).wf = true ∧ (Instr.addImm .float 0 0).wf = true ∧ (Instr.ror .float 15).wf = true := by decide

theorem witness_IgnoredBitsChangeNothing :
    clearIgnored ⟨0x60, 1, 2, 3, 4, 5⟩ = clearIgnored ⟨0x68, 1, 2, 3, 4, 5⟩ ∧
    clearIgnored ⟨0xFB, 0x10, 2, 3, 4, 5⟩ = clearIgnored ⟨0xFB, 0xD0, 2, 3, 4, 5⟩ ∧
    clearIgnored ⟨0xEF, 0x09, 2, 3, 4, 5⟩ = clearIgnored ⟨0xEF, 0xF9, 2, 3, 4, 5⟩ := by decide

theorem witness_UnaryOperandByteFields :
    decode ⟨0xF0, 0xC0, 0, 0, 0, 0⟩ = .inc .byte 0 ∧ decode ⟨0xFB, 0x3F, 0, 0, 0, 0⟩ = .ror .float 15 := by decide

theorem witness_StepRunsTheEncodedInstruction :
    (Instr.movImm .long 8 0x12345678).wf = true ∧
    ∀ k, k < (Instr.movImm .long 8 0x12345678).length →
      (start [0x36, 0x08, 0x78, 0x56, 0x34, 0x12]).mem.byte
        ((start [0x36, 0x08, 0x78, 0x56, 0x34, 0x12]).arch.pc + BitVec.ofNat 32 k)
      = (encode (.movImm .long 8 0x12345678)).getD k 0 := by decide

theorem witness_HaltAndStuckKeepTheState :
    isUnassigned (.unassignedFC 3) = true ∧ Safety.Halted (start [0x01]) ∧ Safety.Hung (start [0x02]) ∧
    Safety.Hung (start [0xFF]) := by
  refine ⟨by decide, ?_, ?_, ?_⟩
  · unfold Safety.Halted; decide
  · unfold Safety.Hung; decide
  · unfold Safety.Hung; decide

theorem witness_SequentialInstructionsAdvancePc :
    ∃ t, kindOf (.movImm .long 0 1) = .delta ∧ transfersControl (.movImm .long 0 1) = false ∧
      exec (.movImm .long 0 1) State.reset = .next t := ⟨_, rfl, rfl, rfl⟩

theorem witness_StepKeepsMemoryCanonical :
    ∃ t, (start [0x20, 0x00, 0xFC, 0x0F] 0x44).mem.wf = true ∧ step (start [0x20, 0x00, 0xFC, 0x0F] 0x44) = .next t :=
  ⟨_, by decide, rfl⟩

theorem witness_ConstructedMemoryIsCanonical :
    1 ≤ ({ Config.start with memSize := 1 } : Config.Init).memSize ∧
    ({ Config.start with memSize := 2 ^ 32 } : Config.Init).memSize ≤ 2 ^ 32 ∧
    small.mem.size ≤ (16 : Word).toNat ∧
    ({ small with arch := { small.arch with pc := 16 } } : State).mem.size
      ≤ ({ small with arch := { small.arch with pc := 16 } } : State).arch.pc.toNat := by decide

theorem witness_CanonicalMemoryIsItsBytes :
    ((small.mem.setByte 3 1).setByte 5 2).wf = true ∧ ((small.mem.setByte 5 2).setByte 3 1).wf = true ∧
    ((small.mem.setByte 3 1).setByte 5 2).size = ((small.mem.setByte 5 2).setByte 3 1).size ∧
    ∀ x : Word, ((small.mem.setByte 3 1).setByte 5 2).byte x = ((small.mem.setByte 5 2).setByte 3 1).byte x :=
  ⟨by decide, by decide, by decide, fun x => by rw [show (small.mem.setByte 3 1).setByte 5 2
    = (small.mem.setByte 5 2).setByte 3 1 from by decide]⟩

theorem witness_MixedWidthAccessesSeeTheSameBytes :
    (∀ k, k < 4 → ((12 : Word) + BitVec.ofNat 32 k).toNat < small.mem.size) ∧
    (∀ k, k < 4 → ((0xFFFFFFFE : Word) + BitVec.ofNat 32 k).toNat < (small (2 ^ 32)).mem.size) ∧
    (start [0x34, 0x00, 0x05]).window.tag = Width.byte.tag ∧ (start [0x35, 0x00, 0x05]).window.tag = Width.word.tag ∧
    (start [0x36, 0x00, 0x05]).window.tag = Width.long.tag := by decide

theorem witness_OnlyStoresPushesAndCallsWriteMemory :
    ∃ t, exec (.pop .long 0) small = .next t ∧ writesMemory (.pop .long 0) = false := ⟨_, rfl, rfl⟩

theorem witness_StepKeepsFloatsAndPlatform : ∃ t, step small = .next t := ⟨_, rfl⟩

theorem witness_FloatRegistersAreNeverRead :
    AlikeButFloats small { small with arch := { small.arch with f0 := 9, f3 := 0xFFFF } } := ⟨9, 2, 3, 0xFFFF, rfl⟩

theorem witness_OnlyStackInstructionsMoveSp :
    (∃ t, exec (.psh .long 8) small = .next t) ∧ (∃ t, exec (.jsral 4) small = .next t) ∧
    (∃ t, exec (.pop .word 9) small = .next t) ∧ (∃ t, exec .ret small = .next t) ∧ (∃ t, exec .nop small = .next t) :=
  ⟨⟨_, rfl⟩, ⟨_, rfl⟩, ⟨_, rfl⟩, ⟨_, rfl⟩, ⟨_, rfl⟩⟩

theorem witness_OnlyDivisionByZeroSetsTrap :
    (∃ t, exec (.modImm .byte 0 0) State.reset = .next t ∧ writesWholeStatus (.modImm .byte 0 0) = false ∧
      dividesByZero (.modImm .byte 0 0) State.reset = true) ∧
    (∃ t, exec (.divReg .long 0 3) small = .next t ∧ writesWholeStatus (.divReg .long 0 3) = false ∧
      dividesByZero (.divReg .long 0 3) small = false) := ⟨⟨_, rfl, rfl, by decide⟩, ⟨_, rfl, rfl, by decide⟩⟩

/-- A view's lowest and highest bit, and the bits beside it. -/
theorem witness_ViewsReadTheirBits :
    spot 4 .byte = some (.a, 8) ∧ spot 7 .word = some (.d, 16) ∧ spot 4 .long = none ∧ spot 8 .byte = none ∧
    (small.arch.read .plain .byte 0).getLsbD 2 = true ∧ (small.arch.read .plain .word 4).getLsbD 15 = true ∧
    (small.arch.read .sbCapable .long 8).getLsbD 3 = true ∧ (small.arch.read .plain .long 8).getLsbD 3 = false := by decide

theorem witness_ViewsWriteTheirBits :
    ((small.arch.write .plain .byte 4 0xFF).reg .a).getLsbD 15 = true ∧
    ((small.arch.write .plain .byte 4 0xFF).reg .a).getLsbD 16 = false ∧
    ((small.arch.write .plain .word 4 0).reg .a).getLsbD 31 = false ∧
    ((small.arch.write .plain .word 4 0).reg .a).getLsbD 2 = true ∧ (small.arch.write .sbCapable .long 8 0x1FF).sb = 0xFF ∧
    (small.arch.write .plain .long 8 0x1FF).sb = 0x08 := by decide

theorem witness_FlagPrimitives :
    flagsSet 0x48 0x48 = true ∧ flagsSet 0x08 0x48 = false ∧ flagsClear 0x48 0xB7 = true ∧ flagsClear 0x48 0x08 = false ∧
    readFlag (writeFlag 0x00 .s true) .s = true ∧ readFlag (writeFlag 0xFF .c false) .c = false := by decide

/-- The greatest immediate of each width: the hypothesis of MovesCopyTheSource, SubtractUndoesAdd and every statement over
`BinaryRule`, AddGivesTheSum to PowerIsExact. -/
theorem witness_immediates :
    (0xFF : Word).toNat < 2 ^ Width.byte.bits ∧ (0xFFFF : Word).toNat < 2 ^ Width.word.bits ∧
    (0xFFFFFFFF : Word).toNat < 2 ^ Width.long.bits := by decide

/-- An address inside and one outside Memory, in and past the bytes stored: the two clauses of `MemStored`. -/
theorem witness_stores_at_the_end :
    ((15 : Word) - (14 : Word)).toNat < 4 ∧ (15 : Word).toNat < small.mem.size ∧
    ¬ (16 : Word).toNat < small.mem.size ∧ ¬ ((18 : Word) - (14 : Word)).toNat < 4 := by decide

theorem witness_SwapExchangesTwoViews :
    spot 0 .byte ≠ none ∧ spot 4 .byte ≠ none ∧ (1 : ViewIdx) ≠ 0 ∧ (1 : ViewIdx) ≠ 4 ∧
    ∀ i ∈ [(0 : ViewIdx), 4], ∀ lo, spot i .byte = some (.a, lo) → ¬ (lo ≤ 16 ∧ 16 < lo + Width.byte.bits) := by
  refine ⟨by decide, by decide, by decide, by decide, ?_⟩
  intro i hi lo h
  have hk : lo = 0 ∨ lo = 8 := by
    fin_cases hi
    · exact .inl (by simpa [spot, physical] using h.symm)
    · exact .inr (by simpa [spot, physical] using h.symm)
  have : Width.byte.bits = 8 := rfl
  omega

theorem witness_PopUndoesPush :
    (∃ t, exec (.psh .long 0) small = .next t ∧ spot 1 .long ≠ none ∧
      ∀ k, k < stackBytes .long 0 → (t.arch.sp + BitVec.ofNat 32 k).toNat < small.mem.size) ∧
    (∃ t, exec (.psh .word 8) (small 16 16) = .next t ∧
      ∀ k, k < stackBytes .word 8 → (t.arch.sp + BitVec.ofNat 32 k).toNat < (small 16 16).mem.size) :=
  ⟨⟨_, rfl, by decide, by decide⟩, ⟨_, rfl, by decide⟩⟩

theorem witness_ReturnUndoesCall :
    (∃ t, exec (.jsr 0x8000) small = .next t ∧
      ∀ k, k < 4 → (t.arch.sp + BitVec.ofNat 32 k).toNat < small.mem.size) ∧
    (∃ t, exec (.jsral 5) (small (2 ^ 32) 2) = .next t ∧
      ∀ k, k < 4 → (t.arch.sp + BitVec.ofNat 32 k).toNat < (small (2 ^ 32) 2).mem.size) :=
  ⟨⟨_, rfl, by decide⟩, ⟨_, rfl, by decide⟩⟩

theorem witness_BranchesTestOneFlag :
    (Instr.bcc, 0, false) ∈ branches ∧ (Instr.bss, 7, true) ∈ branches :=
  ⟨.head _, by simp [branches]⟩

/-- Divisors that are not zero, and one that is, at a width, and both senses of MOD_SIGN: DivideTruncatesTowardZero and
RemainderTakesItsSign. -/
theorem witness_divisors :
    small.arch.read .plain .long 3 ≠ 0 ∧ small.arch.read .plain .byte 7 = 0 ∧ (0xFF : Word) ≠ 0 ∧
    small.modSign = .dividend ∧ ({ small with modSign := .magnitude } : State).modSign = .magnitude := by decide

theorem witness_ZeroDivisorSetsTrap :
    small.arch.read .plain .byte 7 = 0 ∧ readFlag small.arch.sb .t = true ∧
    (∃ t, mayClearTrap (.addReg .long 0 1) = false ∧ exec (.addReg .long 0 1) small = .next t) ∧
    (∃ t, mayClearTrap (.orsImm 0) = false ∧ exec (.orsImm 0) small = .next t) :=
  ⟨by decide, by decide, ⟨_, rfl, rfl⟩, ⟨_, rfl, rfl⟩⟩

/-- An exponent that is negative at its width, and the greatest one that is not. -/
theorem witness_PowerIsExact : topBit .byte 0x80 = true ∧ topBit .byte 0x7F = false ∧ topBit .long 0x7FFFFFFF = false := by decide

theorem witness_SubtractUndoesAdd :
    ∃ t u, (0xFF : Word).toNat < 2 ^ Width.byte.bits ∧ spot 0 .byte ≠ spot 4 .byte ∧ spot 9 .byte = none ∧
      exec (.addReg Width.byte.tag 0 4) small = .next t ∧ exec (.addImm Width.byte.tag 0 0xFF) small = .next u :=
  ⟨_, _, by decide, by decide, by decide, rfl, rfl⟩

theorem witness_QuotientAndRemainderRebuildTheDividend :
    ∃ t u, small.modSign = .dividend ∧ spot 0 .long ≠ none ∧ spot 1 .long ≠ none ∧ spot 0 .long ≠ spot 1 .long ∧
      spot 0 .long ≠ spot 2 .long ∧ spot 1 .long ≠ spot 2 .long ∧
      small.arch.read .plain .long 0 = small.arch.read .plain .long 1 ∧ small.arch.read .plain .long 2 ≠ 0 ∧
      exec (.divReg Width.long.tag 0 2) small = .next t ∧ exec (.modReg Width.long.tag 1 2) t = .next u :=
  ⟨_, _, by decide, by decide, by decide, by decide, by decide, by decide, by decide, by decide, rfl, rfl⟩

theorem witness_DecUndoesInc : ∃ t, exec (.inc Width.word.tag 4) small = .next t := ⟨_, rfl⟩


end Sys2Proof.Tests
end

section
/-! PROOFS. The outcome of every instruction (00_scope.md R11). -/

namespace Sys2Proof.Machine

/-- What an outcome asks of the answer in `s`: a next state, the state itself, or a refusal (00_scope.md R11). -/
def HasOutcome (s : State) (kind : StepKind) (r : StepResult) : Prop :=
  match kind with
  | .delta => ∃ t, r = .next t
  | .halt => r = .next s
  | .stuck => r = .next s
  | .refuse => ∃ e, r = .refused e

/-! ### The outcomes of the shared operations -/

theorem hasOutcome_commit (s : State) (x : Arch) : HasOutcome s .delta (s.commit x) :=
  ⟨_, State.commit_eq s x⟩

theorem hasOutcome_commitWrite (s : State) (x : Arch) (w : Width) (a v : Word) :
    HasOutcome s .delta (s.commitWrite x w a v) :=
  ⟨_, State.commitWrite_eq s x w a v⟩

theorem hasOutcome_branchIf (s : State) (g : Flag) (b : Bool) (off : Half) :
    HasOutcome s .delta (branchIf g b off s) :=
  ⟨_, branchIf_eq g b off s⟩

theorem hasOutcome_halt_unchanged (s : State) : HasOutcome s .halt s.unchanged := State.unchanged_eq s

theorem hasOutcome_stuck_unchanged (s : State) : HasOutcome s .stuck s.unchanged := State.unchanged_eq s

theorem hasOutcome_refused (s : State) (e : Refusal) : HasOutcome s .refuse (.refused e) := ⟨e, rfl⟩

@[simp] theorem tagKind_tag (w : Width) : tagKind w.tag = .delta := by cases w <;> rfl

/-- A tagged form whose meaning is a Delta at each width has the outcome of its tag: the Float tag is refused
(30_encoding.md R111). -/
theorem hasOutcome_atWidth {s : State} {k : Width → StepResult} (t : TypeTag) (e : Refusal)
    (h : ∀ w, HasOutcome s .delta (k w)) : HasOutcome s (tagKind t) (atWidth t e k) := by
  obtain rfl | ⟨w, rfl⟩ := tag_cases t
  · exact hasOutcome_refused s e
  · rw [tagKind_tag, atWidth_tag]
    exact h w

/-! ### The outcome of every instruction -/

/-- Every instruction has the outcome of its kind: the constructors by the shared operation that answers for them. -/
theorem exec_hasOutcome (i : Instr) (s : State) : HasOutcome s (kindOf i) (exec i s) := by
  cases i with
  | hlt => exact hasOutcome_halt_unchanged s
  | wfi | unassigned07 | unassigned0B | unassigned0F | unassigned18 | unassigned28 | unassigned38 | unassigned44
  | unassigned48 | unassigned58 | unassignedFC => exact hasOutcome_stuck_unchanged s
  | rfi | irq | nmi => exact hasOutcome_refused s _
  | nop | ret | andsReg | orsReg | xorsReg | andsImm | orsImm | xorsImm | jmp | jmpl | jmpa | jmpal =>
    exact hasOutcome_commit s _
  | jsr | jsrl | jsra | jsral => exact hasOutcome_commitWrite s _ _ _ _
  | bcc | bhc | bfc | btc | bic | bvc | bzc | bsc | bcs | bhs | bfs | bts | bis | bvs | bzs | bss =>
    exact hasOutcome_branchIf s _ _ _
  | stoDirect t | stoIndexed t | psh t => exact hasOutcome_atWidth t _ fun _ => hasOutcome_commitWrite s _ _ _ _
  | lodDirect t | lodIndexed t | movReg t | movImm t | swp t | pop t
  | addReg t | addImm t | adcReg t | adcImm t | subReg t | subImm t | sbcReg t | sbcImm t | cmpReg t | cmpImm t
  | andReg t | andImm t | orReg t | orImm t | xorReg t | xorImm t | mulReg t | mulImm t | divReg t | divImm t
  | modReg t | modImm t | powReg t | powImm t | minReg t | minImm t | maxReg t | maxImm t
  | inc t | dec t | tst t | com t | neg t | abs t | sxt t | zxt t | shl t | shr t | rol t | ror t =>
    exact hasOutcome_atWidth t _ fun _ => hasOutcome_commit s _

/-- Settles O11: every meaning is one of the shared operations, and each of these has the outcome `kindOf` names. -/
theorem outcomesOfAnInstruction : Obligations.OutcomesOfAnInstruction := exec_hasOutcome

end Sys2Proof.Machine
end

section
/-! PROOFS. What every instruction leaves alone, and how it moves pc, sp and T: one frame that all instructions answer within
(10_state.md R25 to R27, R31, R35). -/

namespace Sys2Proof.Machine

open Sys2Proof.Claims

/-! ### The frame of an instruction -/

/-- H, F and I as before, and T set where it was set or `trap` holds (10_state.md R31). -/
def StatusKept (trap : Bool) (x y : Byte) : Prop :=
  readFlag y .h = readFlag x .h ∧ readFlag y .f = readFlag x .f ∧ readFlag y .i = readFlag x .i ∧
  readFlag y .t = (readFlag x .t || trap)

/-- The registers `x` an instruction may leave behind in `s`: the float registers as before, sp moved by its amount, pc past
its bytes where it transfers no control, and H, F, I and T kept but for a whole write of sb or a zero divisor. -/
structure ArchFrame (i : Instr) (s : State) (x : Arch) : Prop where
  floats : FloatsSame s.arch x
  sp : x.sp = s.arch.sp + spMove i
  pc : kindOf i = .delta → transfersControl i = false → x.pc = s.arch.pcAfter i.length
  status : writesWholeStatus i = false → StatusKept (dividesByZero i s) s.arch.sb x.sb

/-- The next state `t` an instruction may answer in `s`: its registers as `ArchFrame` says, the platform's parameters as
before, and memory too where the instruction writes none (R35). -/
structure Frame (i : Instr) (s t : State) : Prop where
  arch : ArchFrame i s t.arch
  platform : PlatformSame s t
  mem : writesMemory i = false → t.mem = s.mem

/-- No register of the core changes but the general registers. -/
def OnlyGeneralsWritten (x y : Arch) : Prop := FloatsSame x y ∧ y.pc = x.pc ∧ y.sp = x.sp ∧ y.sb = x.sb

/-- The answer is within the frame, where it is a next state at all. -/
def AnswersInFrame (i : Instr) (s : State) (r : StepResult) : Prop := ∀ t, r = .next t → Frame i s t

/-! ### Frames of the register updates -/

section

variable {i : Instr} {s : State}

theorem statusKept_refl (x : Byte) : StatusKept false x x := by simp [StatusKept]

theorem statusKept_aluStatus (w : Width) (o : AluOut) (x : Byte) : StatusKept o.trap x (aluStatus w o x) := by
  simp [StatusKept, readFlag_aluStatus, Bool.or_comm]

theorem onlyGeneralsWritten_refl (x : Arch) : OnlyGeneralsWritten x x := ⟨⟨rfl, rfl, rfl, rfl⟩, rfl, rfl, rfl⟩

theorem onlyGeneralsWritten_write {x y : Arch} (w : Width) (d : ViewIdx) (v : Word) (h : OnlyGeneralsWritten x y) :
    OnlyGeneralsWritten x (y.write .plain w d v) := by
  simpa [OnlyGeneralsWritten, FloatsSame] using h

/-- No register changes but pc and sp. -/
theorem archFrame_pcSp {pc sp : Word} (hsp : sp = s.arch.sp + spMove i)
    (hpc : kindOf i = .delta → transfersControl i = false → pc = s.arch.pcAfter i.length)
    (hdiv : dividesByZero i s = false) : ArchFrame i s { s.arch with pc := pc, sp := sp } where
  floats := ⟨rfl, rfl, rfl, rfl⟩
  sp := hsp
  pc := hpc
  status _ := hdiv ▸ statusKept_refl _

/-- A transfer of control that leaves sp alone replaces pc. -/
theorem archFrame_jump {pc : Word} (hsp : spMove i = 0) (htransfer : transfersControl i = true)
    (hdiv : dividesByZero i s = false) : ArchFrame i s { s.arch with pc := pc } :=
  archFrame_pcSp (by simp [hsp]) (by simp [htransfer]) hdiv

/-- Writes of general views, or none, then past the instruction: LOD and SWP, NOP and STO. -/
theorem archFrame_advance {x : Arch} {n : Nat} (hx : OnlyGeneralsWritten s.arch x) (hsp : spMove i = 0)
    (hlen : i.length = n) (hdiv : dividesByZero i s = false) : ArchFrame i s (x.advance n) := by
  obtain ⟨hfloats, hpc, hsp', hsb⟩ := hx
  exact {
    floats := hfloats
    sp := by simp [hsp, hsp']
    pc := fun _ _ => by simp [Arch.pcAfter, hpc, hlen]
    status := fun _ => by simpa [hdiv, hsb] using statusKept_refl s.arch.sb }

/-- Status-byte logic writes the whole of sb. -/
theorem archFrame_statusLogic {sb : Byte} (hsp : spMove i = 0) (hlen : i.length = 2)
    (hwhole : writesWholeStatus i = true) : ArchFrame i s { s.arch.advance 2 with sb := sb } where
  floats := ⟨rfl, rfl, rfl, rfl⟩
  sp := by simp [hsp]
  pc _ _ := hlen ▸ rfl
  status h := by simp [hwhole] at h

/-- A write that may name the status byte, then past the instruction with sp moved: POP. -/
theorem archFrame_pop {w : Width} {d : ViewIdx} {v sp : Word} {n : Nat} (hsp : sp = s.arch.sp + spMove i)
    (hlen : i.length = n) (hwhole : writesWholeStatus i = decide (d = 8)) (hdiv : dividesByZero i s = false) :
    ArchFrame i s { (s.arch.write .sbCapable w d v).advance n with sp := sp } where
  floats := by simp [FloatsSame]
  sp := hsp
  pc _ _ := by simp [Arch.pcAfter, hlen]
  status h := by
    have hd : d ≠ 8 := by simpa [hwhole] using h
    have hsb := Arch.write_sbCapable_sb s.arch w d v
    rw [if_neg hd] at hsb
    simpa [hdiv, hsb] using statusKept_refl s.arch.sb

/-- A write that may name the status byte, then past the instruction: MOV. -/
theorem archFrame_mov {w : Width} {d : ViewIdx} {v : Word} {n : Nat} (hsp : spMove i = 0)
    (hlen : i.length = n) (hwhole : writesWholeStatus i = decide (d = 8)) (hdiv : dividesByZero i s = false) :
    ArchFrame i s ((s.arch.write .sbCapable w d v).advance n) := by
  have hstay : (s.arch.write .sbCapable w d v).sp = s.arch.sp + spMove i := by simp [hsp]
  exact archFrame_pop hstay hlen hwhole hdiv

theorem archFrame_retireAlu {wb : WriteBack} {w : Width} {d : ViewIdx} {o : AluOut} {n : Nat} (hsp : spMove i = 0)
    (hlen : i.length = n) (htrap : o.trap = dividesByZero i s) : ArchFrame i s (s.arch.retireAlu wb w d o n) where
  floats := by simp [FloatsSame]
  sp := by simp [hsp]
  pc _ _ := by simp [hlen]
  status _ := htrap ▸ statusKept_aluStatus w o s.arch.sb

/-! ### Frames of the shared operations -/

theorem answersInFrame_commit {x : Arch} (h : ArchFrame i s x) : AnswersInFrame i s (s.commit x) := by
  rintro t ⟨⟩
  exact ⟨h, ⟨rfl, rfl⟩, fun _ => rfl⟩

theorem answersInFrame_commitWrite {x : Arch} {w : Width} {a v : Word} (h : ArchFrame i s x)
    (hwrites : writesMemory i = true) : AnswersInFrame i s (s.commitWrite x w a v) := by
  rintro t ⟨⟩
  exact ⟨h, ⟨Memory.write_size _ _ _ _, rfl⟩, by simp [hwrites]⟩

/-- HALT and STUCK: the state itself. -/
theorem answersInFrame_unchanged (hkind : kindOf i ≠ .delta) (hsp : spMove i = 0) (hdiv : dividesByZero i s = false) :
    AnswersInFrame i s s.unchanged :=
  answersInFrame_commit (archFrame_pcSp (by simp [hsp]) (fun h => absurd h hkind) hdiv)

theorem answersInFrame_refused (e : Refusal) : AnswersInFrame i s (.refused e) := nofun

theorem answersInFrame_branchIf {g : Flag} {want : Bool} {off : Half} (hsp : spMove i = 0)
    (htransfer : transfersControl i = true) (hdiv : dividesByZero i s = false) :
    AnswersInFrame i s (branchIf g want off s) := by
  rw [branchIf_eq]
  exact answersInFrame_commit (archFrame_jump hsp htransfer hdiv)

theorem answersInFrame_atWidth {t : TypeTag} {e : Refusal} {k : Width → StepResult}
    (h : ∀ w, t = w.tag → AnswersInFrame i s (k w)) : AnswersInFrame i s (atWidth t e k) := by
  intro s' hs
  obtain ⟨w, ht, hw⟩ := atWidth_next hs
  exact h w ht s' hw

theorem answersInFrame_binaryReg {wb : WriteBack} {op : BinaryOp} {t : TypeTag} {d r : ViewIdx} (hsp : spMove i = 0)
    (hlen : i.length = 2)
    (htrap : ∀ w, t = w.tag → (op s w (s.arch.read .plain w d) (s.arch.read .plain w r)).trap = dividesByZero i s) :
    AnswersInFrame i s (binaryReg wb op t d r s) :=
  answersInFrame_atWidth fun w ht => answersInFrame_commit (archFrame_retireAlu hsp hlen (htrap w ht))

theorem answersInFrame_binaryImm {wb : WriteBack} {op : BinaryOp} {t : TypeTag} {d : ViewIdx} {imm : Word}
    (hsp : spMove i = 0) (hlen : i.length = 2 + t.bytes)
    (htrap : ∀ w, t = w.tag → (op s w (s.arch.read .plain w d) (immAt w imm)).trap = dividesByZero i s) :
    AnswersInFrame i s (binaryImm wb op t d imm s) :=
  answersInFrame_atWidth fun w ht =>
    answersInFrame_commit (archFrame_retireAlu hsp (by rw [hlen, ht, bytes_tag]) (htrap w ht))

theorem answersInFrame_unary {wb : WriteBack} {op : UnaryOp} {t : TypeTag} {d : ViewIdx} (hsp : spMove i = 0)
    (hlen : i.length = 2) (htrap : ∀ w, (op w (s.arch.read .plain w d)).trap = dividesByZero i s) :
    AnswersInFrame i s (unary wb op t d s) :=
  answersInFrame_atWidth fun w _ => answersInFrame_commit (archFrame_retireAlu hsp hlen (htrap w))

end

/-! ### How far sp moves -/

theorem Arch.spBelow_eq_add (x : Arch) (w : Width) : x.spBelow w = x.sp + -BitVec.ofNat 32 w.bytes :=
  BitVec.sub_eq_add_neg _ _

/-- The bytes a stack form moves are those of its stack width (41_data_move.md R161). -/
theorem stackBytes_tag (w : Width) (d : ViewIdx) : stackBytes w.tag d = (stackWidth w d).bytes := by
  unfold stackBytes stackWidth
  split
  · rfl
  · exact bytes_tag w

theorem spMove_psh (w : Width) (d : ViewIdx) : spMove (.psh w.tag d) = -BitVec.ofNat 32 (stackWidth w d).bytes := by
  rw [← stackBytes_tag]
  rfl

theorem spMove_pop (w : Width) (d : ViewIdx) : spMove (.pop w.tag d) = BitVec.ofNat 32 (stackWidth w d).bytes := by
  rw [← stackBytes_tag]
  rfl

/-! ### Where T is set -/

/-- A value of the width has the magnitude 0 exactly where it is 0 (43_alu_binary.md R221). -/
theorem absAt_eq_zero {w : Width} {v : Word} (h : v.toNat < 2 ^ w.bits) : absAt w v = 0 ↔ v = 0 := by
  have hneg : (-v) &&& w.mask = 0 ↔ v = 0 := by
    rw [← BitVec.toNat_inj, ← BitVec.toNat_inj, Width.toNat_and_mask, BitVec.toNat_neg]
    cases w <;> simp only [Width.bits] at h ⊢ <;> simp <;> omega
  unfold absAt
  split
  · exact hneg
  · rfl

theorem divOut_trap {w : Width} (v1 : Word) {v2 : Word} (h : v2.toNat < 2 ^ w.bits) :
    (divOut w v1 v2).trap = decide (v2 = 0) := by
  simp only [divOut, absAt_eq_zero h]
  split
  · next hz => exact (decide_eq_true hz).symm
  · next hz => exact (decide_eq_false hz).symm

theorem modOut_trap (m : ModSign) {w : Width} (v1 : Word) {v2 : Word} (h : v2.toNat < 2 ^ w.bits) :
    (modOut m w v1 v2).trap = decide (v2 = 0) := by
  simp only [modOut, absAt_eq_zero h]
  split
  · next hz => exact (decide_eq_true hz).symm
  · next hz => exact (decide_eq_false hz).symm

theorem powOut_trap (w : Width) (v1 v2 : Word) : (powOut w v1 v2).trap = false := by
  unfold powOut
  split <;> rfl

theorem immAt_lt (w : Width) (imm : Word) : (immAt w imm).toNat < 2 ^ w.bits := by
  rw [immAt, Width.toNat_and_mask]
  exact Nat.mod_lt _ (Nat.two_pow_pos _)

/-- An immediate is 0 at a width where its n(T) bytes are (30_encoding.md R96). -/
theorem immAt_eq_zero (w : Width) (imm : Word) : immAt w imm = 0 ↔ imm.toNat % 2 ^ (8 * w.tag.bytes) = 0 := by
  rw [immAt, ← BitVec.toNat_inj, Width.toNat_and_mask, Width.bits_eq, bytes_tag]
  rfl

/-! ### Every instruction answers within its frame -/

/-- Whatever the instruction, a next state is within its frame: the constructors by the shared operation that answers. -/
theorem exec_answersInFrame (i : Instr) (s : State) : AnswersInFrame i s (exec i s) := by
  cases i with
  | hlt | wfi | unassigned07 | unassigned0B | unassigned0F | unassigned18 | unassigned28 | unassigned38 | unassigned44
  | unassigned48 | unassigned58 | unassignedFC => exact answersInFrame_unchanged nofun rfl rfl
  | rfi | irq | nmi => exact answersInFrame_refused _
  | nop => exact answersInFrame_commit (archFrame_advance (onlyGeneralsWritten_refl _) rfl rfl rfl)
  | ret => exact answersInFrame_commit (archFrame_pcSp rfl nofun rfl)
  | andsReg | orsReg | xorsReg | andsImm | orsImm | xorsImm =>
    exact answersInFrame_commit (archFrame_statusLogic rfl rfl rfl)
  | jmp | jmpl | jmpa | jmpal => exact answersInFrame_commit (archFrame_jump rfl rfl rfl)
  | jsr | jsrl | jsra | jsral => exact answersInFrame_commitWrite (archFrame_pcSp (Arch.spBelow_eq_add _ .long) nofun rfl) rfl
  | bcc | bhc | bfc | btc | bic | bvc | bzc | bsc | bcs | bhs | bfs | bts | bis | bvs | bzs | bss =>
    exact answersInFrame_branchIf rfl rfl rfl
  | lodDirect | lodIndexed =>
    exact answersInFrame_atWidth fun _ _ =>
      answersInFrame_commit (archFrame_advance (onlyGeneralsWritten_write _ _ _ (onlyGeneralsWritten_refl _)) rfl rfl rfl)
  | stoDirect | stoIndexed =>
    exact answersInFrame_atWidth fun _ _ =>
      answersInFrame_commitWrite (archFrame_advance (onlyGeneralsWritten_refl _) rfl rfl rfl) rfl
  | movReg => exact answersInFrame_atWidth fun _ _ => answersInFrame_commit (archFrame_mov rfl rfl rfl rfl)
  | movImm t =>
    refine answersInFrame_atWidth fun w ht => answersInFrame_commit (archFrame_mov rfl ?_ rfl rfl)
    show 2 + t.bytes = 2 + w.bytes
    rw [ht, bytes_tag]
  | swp =>
    exact answersInFrame_atWidth fun _ _ =>
      answersInFrame_commit (archFrame_advance
        (onlyGeneralsWritten_write _ _ _ (onlyGeneralsWritten_write _ _ _ (onlyGeneralsWritten_refl _))) rfl rfl rfl)
  | psh t d =>
    refine answersInFrame_atWidth fun w ht => answersInFrame_commitWrite (archFrame_pcSp ?_ (fun _ _ => rfl) rfl) rfl
    rw [ht, spMove_psh]
    exact Arch.spBelow_eq_add _ _
  | pop t d =>
    refine answersInFrame_atWidth fun w ht => answersInFrame_commit (archFrame_pop ?_ rfl rfl rfl)
    rw [ht, spMove_pop]
    rfl
  | divReg t d r =>
    refine answersInFrame_binaryReg rfl rfl fun w ht => ?_
    subst ht
    simp [divOp, divOut_trap _ (Arch.read_lt ..), dividesByZero]
  | modReg t d r =>
    refine answersInFrame_binaryReg rfl rfl fun w ht => ?_
    subst ht
    simp [modOp, modOut_trap _ _ (Arch.read_lt ..), dividesByZero]
  | divImm t d imm =>
    refine answersInFrame_binaryImm rfl rfl fun w ht => ?_
    subst ht
    exact (divOut_trap _ (immAt_lt w imm)).trans (decide_eq_decide.mpr (immAt_eq_zero w imm))
  | modImm t d imm =>
    refine answersInFrame_binaryImm rfl rfl fun w ht => ?_
    subst ht
    exact (modOut_trap _ _ (immAt_lt w imm)).trans (decide_eq_decide.mpr (immAt_eq_zero w imm))
  | powReg => exact answersInFrame_binaryReg rfl rfl fun w _ => powOut_trap w _ _
  | powImm => exact answersInFrame_binaryImm rfl rfl fun w _ => powOut_trap w _ _
  | addReg | adcReg | subReg | sbcReg | cmpReg | andReg | orReg | xorReg | mulReg | minReg | maxReg =>
    exact answersInFrame_binaryReg rfl rfl fun _ _ => rfl
  | addImm | adcImm | subImm | sbcImm | cmpImm | andImm | orImm | xorImm | mulImm | minImm | maxImm =>
    exact answersInFrame_binaryImm rfl rfl fun _ _ => rfl
  | inc | dec | tst | com | neg | abs | sxt | zxt | shl | shr | rol | ror =>
    exact answersInFrame_unary rfl rfl fun _ => rfl

/-! ### The statements the frame gives -/

/-- Settles O19: the frame keeps memory where the instruction writes none. -/
theorem onlyStoresPushesAndCallsWriteMemory : Obligations.OnlyStoresPushesAndCallsWriteMemory := by
  intro i s t h hwrites x
  rw [(exec_answersInFrame i s t h).mem hwrites]

/-- Settles O21: a step is an instruction, and every instruction's frame keeps the float registers and the parameters. -/
theorem stepKeepsFloatsAndPlatform : Obligations.StepKeepsFloatsAndPlatform := by
  intro s t h
  have hframe := exec_answersInFrame (decode s.window) s t h
  exact ⟨hframe.arch.floats, hframe.platform⟩

/-- Settles O23: the frame moves sp by the amount of the instruction. -/
theorem onlyStackInstructionsMoveSp : Obligations.OnlyStackInstructionsMoveSp :=
  fun i s t h => (exec_answersInFrame i s t h).arch.sp

/-- Settles O24: the frame keeps H, F and I and sets T by a zero divisor alone. -/
theorem onlyDivisionByZeroSetsTrap : Obligations.OnlyDivisionByZeroSetsTrap :=
  fun i s t h => (exec_answersInFrame i s t h).arch.status

/-- Settles O14: the frame moves pc past the instruction's bytes, modulo 2^32. -/
theorem sequentialInstructionsAdvancePc : Obligations.SequentialInstructionsAdvancePc := by
  intro i s t hkind htransfer h
  rw [(exec_answersInFrame i s t h).arch.pc hkind htransfer]
  simp [Arch.pcAfter]

end Sys2Proof.Machine
end

section
/-! PROOFS. No instruction reads a float register (10_state.md R27, R28): running an instruction commutes with exchanging the
float registers. -/

namespace Sys2Proof.Machine

open Sys2Proof.Claims

/-! ### Exchanging the float registers -/

/-- The registers of `x` with the float registers of `y`. -/
def Arch.withFloatsOf (x y : Arch) : Arch := { x with f0 := y.f0, f1 := y.f1, f2 := y.f2, f3 := y.f3 }

/-- The state with the float registers of `y`. -/
def State.withFloatsOf (s : State) (y : Arch) : State := { s with arch := s.arch.withFloatsOf y }

/-- The answer with the float registers of `y` in its next state, where it is one. -/
def withFloatsOf (y : Arch) : StepResult → StepResult
  | .next t => .next (t.withFloatsOf y)
  | .fault e => .fault e
  | .refused e => .refused e

/-- States alike but for the float registers are those that exchange them. -/
theorem alikeButFloats_iff (s u : State) : AlikeButFloats s u ↔ ∃ y, u = s.withFloatsOf y := by
  constructor
  · rintro ⟨f0, f1, f2, f3, rfl⟩
    exact ⟨{ s.arch with f0 := f0, f1 := f1, f2 := f2, f3 := f3 }, rfl⟩
  · rintro ⟨y, rfl⟩
    exact ⟨y.f0, y.f1, y.f2, y.f3, rfl⟩

section

variable (x y : Arch) (s : State)

@[simp] theorem State.withFloatsOf_arch : (s.withFloatsOf y).arch = s.arch.withFloatsOf y := rfl

@[simp] theorem Arch.withFloatsOf_reg (r : Reg) : (x.withFloatsOf y).reg r = x.reg r := by cases r <;> rfl

@[simp] theorem Arch.withFloatsOf_read (k : ViewClass) (w : Width) (i : ViewIdx) :
    (x.withFloatsOf y).read k w i = x.read k w i :=
  Arch.read_congr (x.withFloatsOf_reg y) rfl k w i

theorem Arch.withFloatsOf_setReg (r : Reg) (v : Word) :
    (x.withFloatsOf y).setReg r v = (x.setReg r v).withFloatsOf y := by cases r <;> rfl

theorem Arch.withFloatsOf_write (k : ViewClass) (w : Width) (i : ViewIdx) (v : Word) :
    (x.withFloatsOf y).write k w i v = (x.write k w i v).withFloatsOf y := by
  unfold Arch.write
  cases viewOf i with
  | low r => simp [Arch.writeView, Arch.withFloatsOf_setReg]
  | high r => cases w <;> simp [Arch.writeView, Arch.withFloatsOf_setReg]
  | status => cases k <;> rfl
  | outOfRange => rfl

theorem Arch.withFloatsOf_retireAlu (wb : WriteBack) (w : Width) (d : ViewIdx) (o : AluOut) (n : Nat) :
    (x.withFloatsOf y).retireAlu wb w d o n = (x.retireAlu wb w d o n).withFloatsOf y := by
  cases wb with
  | writes => simp only [Arch.retireAlu, Arch.withFloatsOf_write]; rfl
  | suppressed => rfl

/-! ### The shared operations -/

theorem withFloatsOf_atWidth {t : TypeTag} {e : Refusal} {k k' : Width → StepResult}
    (h : ∀ w, k w = withFloatsOf y (k' w)) : atWidth t e k = withFloatsOf y (atWidth t e k') := by
  obtain rfl | ⟨w, rfl⟩ := tag_cases t
  · rfl
  · simpa using h w

theorem withFloatsOf_loadFrom (t : TypeTag) (d : ViewIdx) (a : Word) :
    loadFrom t d a (s.withFloatsOf y) = withFloatsOf y (loadFrom t d a s) :=
  withFloatsOf_atWidth y fun w => congrArg (fun z => (s.withFloatsOf y).commit (z.advance 4))
    (s.arch.withFloatsOf_write y .plain w d (s.mem.read w a))

theorem withFloatsOf_storeTo (t : TypeTag) (d : ViewIdx) (a : Word) :
    storeTo t d a (s.withFloatsOf y) = withFloatsOf y (storeTo t d a s) :=
  withFloatsOf_atWidth y fun w => congrArg ((s.withFloatsOf y).commitWrite _ w a) (s.arch.withFloatsOf_read y .plain w d)

theorem withFloatsOf_branchIf (g : Flag) (want : Bool) (off : Half) :
    branchIf g want off (s.withFloatsOf y) = withFloatsOf y (branchIf g want off s) := by
  rw [branchIf_eq, branchIf_eq]
  rfl

theorem withFloatsOf_binaryReg (wb : WriteBack) (op : BinaryOp) (t : TypeTag) (d r : ViewIdx)
    (hop : op (s.withFloatsOf y) = op s) :
    binaryReg wb op t d r (s.withFloatsOf y) = withFloatsOf y (binaryReg wb op t d r s) :=
  withFloatsOf_atWidth y fun w => by
    rw [hop]
    simp only [State.withFloatsOf_arch, Arch.withFloatsOf_read, Arch.withFloatsOf_retireAlu]
    rfl

theorem withFloatsOf_binaryImm (wb : WriteBack) (op : BinaryOp) (t : TypeTag) (d : ViewIdx) (imm : Word)
    (hop : op (s.withFloatsOf y) = op s) :
    binaryImm wb op t d imm (s.withFloatsOf y) = withFloatsOf y (binaryImm wb op t d imm s) :=
  withFloatsOf_atWidth y fun w => by
    rw [hop]
    simp only [State.withFloatsOf_arch, Arch.withFloatsOf_read, Arch.withFloatsOf_retireAlu]
    rfl

theorem withFloatsOf_unary (wb : WriteBack) (op : UnaryOp) (t : TypeTag) (d : ViewIdx) :
    unary wb op t d (s.withFloatsOf y) = withFloatsOf y (unary wb op t d s) :=
  withFloatsOf_atWidth y fun w => by
    simp only [State.withFloatsOf_arch, Arch.withFloatsOf_read, Arch.withFloatsOf_retireAlu]
    rfl

end

/-! ### Every instruction -/

/-- Running an instruction commutes with exchanging the float registers: the constructors by the shared operation that
answers for them. -/
theorem exec_withFloatsOf (i : Instr) (s : State) (y : Arch) :
    exec i (s.withFloatsOf y) = withFloatsOf y (exec i s) := by
  cases i with
  | nop | hlt | wfi | ret | rfi | irq | nmi | andsReg | orsReg | xorsReg | andsImm | orsImm | xorsImm | jmp | jmpl | jsr
  | jsrl | jmpa | jmpal | jsra | jsral | unassigned07 | unassigned0B | unassigned0F | unassigned18 | unassigned28
  | unassigned38 | unassigned44 | unassigned48 | unassigned58 | unassignedFC => rfl
  | bcc | bhc | bfc | btc | bic | bvc | bzc | bsc | bcs | bhs | bfs | bts | bis | bvs | bzs | bss =>
    exact withFloatsOf_branchIf y s _ _ _
  | lodDirect | lodIndexed => exact withFloatsOf_loadFrom y s _ _ _
  | stoDirect | stoIndexed => exact withFloatsOf_storeTo y s _ _ _
  | movReg | movImm | swp | psh | pop =>
    refine withFloatsOf_atWidth y fun w => ?_
    simp only [State.withFloatsOf_arch, Arch.withFloatsOf_read, Arch.withFloatsOf_write]
    rfl
  | addReg | adcReg | subReg | sbcReg | cmpReg | andReg | orReg | xorReg | mulReg | divReg | modReg | powReg | minReg
  | maxReg => exact withFloatsOf_binaryReg y s _ _ _ _ _ rfl
  | addImm | adcImm | subImm | sbcImm | cmpImm | andImm | orImm | xorImm | mulImm | divImm | modImm | powImm | minImm
  | maxImm => exact withFloatsOf_binaryImm y s _ _ _ _ _ rfl
  | inc | dec | tst | com | neg | abs | sxt | zxt | shl | shr | rol | ror => exact withFloatsOf_unary y s _ _ _ _

/-- Settles O22: the steps run the same instruction, and that commutes with exchanging the float registers. -/
theorem floatRegistersAreNeverRead : Obligations.FloatRegistersAreNeverRead := by
  intro s u h
  obtain ⟨y, rfl⟩ := (alikeButFloats_iff s u).mp h
  have hstep : step (s.withFloatsOf y) = withFloatsOf y (step s) := exec_withFloatsOf (decode s.window) s y
  rw [hstep]
  cases step s with
  | next t => exact (alikeButFloats_iff t _).mpr ⟨y, rfl⟩
  | fault e => nomatch e
  | refused e => rfl

end Sys2Proof.Machine
end

section
/-! PROOFS. Register views bit by bit (10_state.md R22 to R24, R29). -/

namespace Sys2Proof

/-- A bit of a mask (00_scope.md R9). -/
theorem Width.getLsbD_mask (w : Width) (k : Nat) : w.mask.getLsbD k = decide (k < w.bits) := by
  rw [BitVec.getLsbD, Width.mask_toNat, Nat.testBit_two_pow_sub_one]

end Sys2Proof

namespace Sys2Proof.Machine

open Sys2Proof.Claims

/-! ### Where a view lies -/

/-- Where a view lies: the register and the lowest of its bits, where it is a view of one at the width (10_state.md R22). -/
def View.place (w : Width) : View → Option (Reg × Nat)
  | .low r => some (r, 0)
  | .high r =>
    match w with
    | .byte => some (r, 8)
    | .word => some (r, 16)
    | .long => none
  | .status => none
  | .outOfRange => none

/-- The claims' table of views is where the model's views lie. -/
theorem spot_eq_place (i : ViewIdx) (w : Width) : spot i w = (viewOf i).place w := by
  revert i
  cases w <;> decide

/-! ### Reading a view -/

section

variable (x : Arch) (c : ViewClass) (w : Width)

/-- A view that lies in a register reads its bits there. -/
theorem Arch.readView_getLsbD_of_place {u : View} {r : Reg} {lo : Nat} (h : u.place w = some (r, lo)) (k : Nat) :
    (x.readView c w u).getLsbD k = (decide (k < w.bits) && (x.reg r).getLsbD (lo + k)) := by
  cases u with
  | low q =>
    obtain ⟨rfl, rfl⟩ : q = r ∧ 0 = lo := by simpa [View.place] using h
    simp only [Arch.readView, Width.getLsbD_and_mask, Nat.zero_add]
  | high q =>
    cases w with
    | byte =>
      obtain ⟨rfl, rfl⟩ : q = r ∧ 8 = lo := by simpa [View.place] using h
      exact (Width.getLsbD_and_mask .byte (x.reg q >>> 8) k).trans (by simp)
    | word =>
      obtain ⟨rfl, rfl⟩ : q = r ∧ 16 = lo := by simpa [View.place] using h
      rw [Arch.readView, BitVec.getLsbD_ushiftRight]
      by_cases hk : k < 16
      · simp [Width.bits, hk]
      · simp [Width.bits, hk, BitVec.getLsbD_of_ge (x.reg q) (16 + k) (by omega)]
    | long => simp [View.place] at h
  | status => simp [View.place] at h
  | outOfRange => simp [View.place] at h

/-- A view that lies in no register reads sb where it is the status byte and may be named, else 0. -/
theorem Arch.readView_getLsbD_of_no_place {u : View} (h : u.place w = none) (k : Nat) :
    (x.readView c w u).getLsbD k
      = (decide (k < w.bits) && (decide (u = .status) && decide (c = .sbCapable) && x.sb.getLsbD k)) := by
  cases u with
  | low q => simp [View.place] at h
  | high q => cases w <;> simp_all [View.place, Arch.readView]
  | status =>
    cases c with
    | sbCapable =>
      have hlt : k < w.bits → k < 32 := fun hk => Nat.lt_of_lt_of_le hk w.bits_le
      simp only [Arch.readView, Width.getLsbD_and_mask, BitVec.getLsbD_setWidth]
      by_cases hk : k < w.bits <;> simp [hk, hlt]
    | plain => simp [Arch.readView]
  | outOfRange => simp [Arch.readView]

end

/-- Settles O25: a view lies in a register, or it is the status byte, or it reads 0. -/
theorem viewsReadTheirBits : Obligations.ViewsReadTheirBits := by
  intro x c w i k
  rw [Arch.read, spot_eq_place]
  cases h : (viewOf i).place w with
  | some p => exact x.readView_getLsbD_of_place c w h k
  | none => simp only [x.readView_getLsbD_of_no_place c w h k, viewOf_status]

/-! ### Writing a view -/

/-- Bits of a value put into a word: those from `lo` on, of the width, are the value's, the others the word's. -/
theorem getLsbD_deposit (w : Width) (lo : Nat) (x v : Word) {k : Nat} (hk : k < 32) :
    ((x &&& ~~~(w.mask <<< lo)) ||| ((v &&& w.mask) <<< lo)).getLsbD k
      = if lo ≤ k ∧ k < lo + w.bits then v.getLsbD (k - lo) else x.getLsbD k := by
  simp only [BitVec.getLsbD_or, BitVec.getLsbD_and, BitVec.getLsbD_not, BitVec.getLsbD_shiftLeft,
    Width.getLsbD_mask, hk, decide_true, Bool.true_and]
  by_cases hlo : lo ≤ k
  · have hin : k - lo < w.bits ↔ k < lo + w.bits := by omega
    by_cases hhi : k < lo + w.bits <;> simp [Nat.not_lt.mpr hlo, hlo, hhi, hin]
  · simp [hlo, Nat.lt_of_not_le hlo]

section

variable (x : Arch) (c : ViewClass) (w : Width) (v : Word)

/-- Writing a view that lies in a register puts the value's low bits there. -/
theorem Arch.writeView_eq_of_place {u : View} {r : Reg} {lo : Nat} (h : u.place w = some (r, lo)) :
    x.writeView c w v u = x.setReg r ((x.reg r &&& ~~~(w.mask <<< lo)) ||| ((v &&& w.mask) <<< lo)) := by
  cases u with
  | low q =>
    obtain ⟨rfl, rfl⟩ : q = r ∧ 0 = lo := by simpa [View.place] using h
    simp [Arch.writeView]
  | high q =>
    cases w with
    | byte =>
      obtain ⟨rfl, rfl⟩ : q = r ∧ 8 = lo := by simpa [View.place] using h
      rfl
    | word =>
      obtain ⟨rfl, rfl⟩ : q = r ∧ 16 = lo := by simpa [View.place] using h
      have hshift : v <<< 16 = (v &&& Width.word.mask) <<< 16 := by
        apply BitVec.eq_of_toNat_eq
        rw [BitVec.toNat_shiftLeft, BitVec.toNat_shiftLeft, Width.toNat_and_mask, Nat.shiftLeft_eq, Nat.shiftLeft_eq]
        simp only [Width.bits]
        omega
      rw [← hshift]
      rfl
    | long => simp [View.place] at h
  | status => simp [View.place] at h
  | outOfRange => simp [View.place] at h

/-- Writing a view that lies in no register changes no general register. -/
theorem Arch.writeView_reg_of_no_place {u : View} (h : u.place w = none) (q : Reg) :
    (x.writeView c w v u).reg q = x.reg q := by
  cases u with
  | low r => simp [View.place] at h
  | high r => cases w <;> simp_all [View.place, Arch.writeView]
  | status => cases c <;> cases q <;> rfl
  | outOfRange => rfl

/-- Writing a view changes the view's bits, and no other bit of a general register (R24). -/
theorem Arch.write_regsWritten (i : ViewIdx) : RegsWritten x (x.write c w i v) w i v := by
  intro q k hk
  rw [Arch.write, spot_eq_place]
  cases h : (viewOf i).place w with
  | none => simp only [x.writeView_reg_of_no_place c w v h]
  | some p =>
    obtain ⟨r, lo⟩ := p
    rw [x.writeView_eq_of_place c w v h, Arch.setReg_reg]
    by_cases hq : q = r
    · subst hq
      simpa using getLsbD_deposit w lo (x.reg q) v hk
    · simp [hq, Ne.symm hq]

/-- Writing a view changes sb where it names index 8 and may. -/
theorem Arch.write_sb (i : ViewIdx) :
    (x.write c w i v).sb = if i = 8 ∧ c = .sbCapable then BitVec.ofNat 8 v.toNat else x.sb := by
  cases c with
  | sbCapable => simpa using x.write_sbCapable_sb w i v
  | plain => simp

end

/-- Settles O26: the bits of the registers, sb, and the registers no view names. -/
theorem viewsWriteTheirBits : Obligations.ViewsWriteTheirBits := fun x c w i v =>
  ⟨x.write_regsWritten c w v i, x.write_sb c w v i, by simp, by simp, by simp [FloatsSame]⟩

/-- A view of A, written, is read at its place in the long register. -/
theorem long_of_write_view (x : Arch) (c : ViewClass) (w : Width) (i : ViewIdx) (v : Word) {lo : Nat}
    (h : spot i w = some (.a, lo)) (hlo : lo + w.bits ≤ 32) :
    ((x.write c w i v).read c .long 0).toNat / 2 ^ lo % 2 ^ w.bits = v.toNat % 2 ^ w.bits := by
  apply Nat.eq_of_testBit_eq
  intro k
  rw [Nat.testBit_mod_two_pow, Nat.testBit_mod_two_pow, Nat.testBit_div_two_pow]
  by_cases hk : k < w.bits
  · have hlt : k + lo < 32 := by omega
    have hread : ((x.write c w i v).read c .long 0).getLsbD (k + lo) = ((x.write c w i v).reg .a).getLsbD (k + lo) := by
      rw [viewsReadTheirBits]
      simp [spot, physical, Width.bits, hlt]
    have hwrite := x.write_regsWritten c w v i .a (k + lo) hlt
    have hin : k + lo < lo + w.bits := by omega
    simp only [h, Nat.le_add_left, hin, and_self, if_true, Nat.add_sub_cancel] at hwrite
    simp only [hk, decide_true, Bool.true_and]
    exact hread.trans hwrite
  · simp [hk]

/-- Settles O27: AH lies at bit 8 of A, and the high word, which ends with the register, at bit 16. -/
theorem highViewsLodgeInTheLongRegister : Obligations.HighViewsLodgeInTheLongRegister := by
  intro x c v
  have hbyte := long_of_write_view x c .byte 4 v rfl (by decide)
  have hword := long_of_write_view x c .word 4 v rfl (by decide)
  simp only [Width.bits] at hbyte hword
  refine ⟨hbyte, ?_⟩
  have hend : ((x.write c .word 4 v).read c .long 0).toNat < 2 ^ 32 := BitVec.isLt _
  rwa [Nat.mod_eq_of_lt (by omega)] at hword

end Sys2Proof.Machine
end

section
/-! PROOFS. The flag primitives (10_state.md R30, R32). -/

namespace Sys2Proof.Machine

theorem Flag.bit_lt (g : Flag) : g.bit < 8 := by cases g <;> decide

/-- The mask of one flag. -/
theorem Flag.mask_getLsbD (g : Flag) (k : Nat) : (1#8 <<< g.bit).getLsbD k = decide (k = g.bit) := by
  have hg := g.bit_lt
  rw [BitVec.getLsbD_shiftLeft, BitVec.getLsbD_one]
  by_cases hk : k = g.bit
  · simp [hk, hg]
  · have hne : ¬ k < g.bit → k - g.bit ≠ 0 := by omega
    by_cases hlt : k < g.bit <;> simp [hk, hlt, hne]

/-- Every bit after a flag is written: the flag's takes the value, every other is as before. -/
theorem writeFlag_getLsbD (sb : Byte) (g : Flag) (b : Bool) (k : Nat) :
    (writeFlag sb g b).getLsbD k = if k = g.bit then b else sb.getLsbD k := by
  cases b with
  | true =>
    simp only [writeFlag, if_true, BitVec.getLsbD_or, Flag.mask_getLsbD]
    by_cases hk : k = g.bit <;> simp [hk]
  | false =>
    have hbyte : sb.getLsbD k = true → k < 8 := BitVec.lt_of_getLsbD
    simp only [writeFlag, Bool.false_eq_true, if_false, BitVec.getLsbD_and, BitVec.getLsbD_not, Flag.mask_getLsbD]
    by_cases hk : k = g.bit
    · simp [hk]
    · simpa [hk] using hbyte

theorem flagsSet_iff (sb m : Byte) :
    flagsSet sb m = true ↔ ∀ k, k < 8 → m.getLsbD k = true → sb.getLsbD k = true := by
  rw [flagsSet, decide_eq_true_eq]
  constructor
  · intro h k _ hm
    have hbit := congrArg (·.getLsbD k) h
    simpa [hm] using hbit
  · intro h
    refine BitVec.eq_of_getLsbD_eq fun k hk => ?_
    simpa using h k hk

theorem flagsClear_iff (sb m : Byte) :
    flagsClear sb m = true ↔ ∀ k, k < 8 → m.getLsbD k = true → sb.getLsbD k = false := by
  rw [flagsClear, decide_eq_true_eq]
  constructor
  · intro h k _ hm
    have hbit := congrArg (·.getLsbD k) h
    simpa [hm] using hbit
  · intro h
    refine BitVec.eq_of_getLsbD_eq fun k hk => ?_
    cases hm : m.getLsbD k with
    | true => simp [h k hk hm]
    | false => simp [hm]

/-- Settles O28: one bit of a byte read and written, the masks bit by bit, and the numbers of the flags. -/
theorem flagPrimitives : Obligations.FlagPrimitives := by
  refine ⟨fun sb g => ?_, writeFlag_getLsbD, flagsSet_iff, flagsClear_iff, fun sb => ?_, ?_⟩
  · exact Nat.testBit_eq_decide_div_mod_eq
  · exact ⟨rfl, rfl, rfl, rfl, rfl, rfl, rfl, rfl⟩
  · exact ⟨rfl, rfl, rfl, rfl, rfl, rfl, rfl, rfl⟩

end Sys2Proof.Machine
end

section
/-! PROOFS. Construction, and the end of Memory (10_state.md R37, 20_memory.md R61, 60_exceptions.md R303). -/

namespace Sys2Proof.Machine

/-- Construction with a size R61 allows leaves canonical memory. -/
theorem construct_mem_wf (p : Config.Init) (hlo : 1 ≤ p.memSize) (hhi : p.memSize ≤ 2 ^ 32) :
    (State.construct p).mem.wf = true :=
  (Memory.wf_iff _).mpr ⟨hlo, hhi, rfl, rfl⟩

/-- What memory reads with nothing loaded: the unwritten byte inside (log 4), all ones outside (R61). -/
theorem construct_mem_byte (p : Config.Init) (x : Word) :
    (State.construct p).mem.byte x = if x.toNat < p.memSize then 0x00 else 0xFF := by
  split
  · next h => exact Memory.byte_inside h
  · next h => exact Memory.byte_outside (Nat.not_lt.mp h)

/-- The opcode byte 0xFF is unassigned whatever follows it (30_encoding.md R110). -/
theorem decode_of_b0_eq_ff {w : Window} (h : w.b0 = 0xFF) : decode w = .unassignedFC 3 := by
  simp [decode, decodeUnary, h, highNibble, lowNibble]

theorem window_b0 (s : State) : s.window.b0 = s.mem.byte s.arch.pc := rfl

/-- Outside Memory the unassigned opcode 0xFF is decoded (R303). -/
theorem decode_outside {s : State} (h : s.mem.size ≤ s.arch.pc.toNat) : decode s.window = .unassignedFC 3 :=
  decode_of_b0_eq_ff ((window_b0 s).trans (Memory.byte_outside h))

/-- Settles O16: the canonical empty memory, its bytes, and the opcode a fetch outside it decodes. -/
theorem constructedMemoryIsCanonical : Obligations.ConstructedMemoryIsCanonical := by
  refine ⟨rfl, construct_mem_wf _ (by decide) (by decide), fun p hlo hhi => ?_, fun m x => Memory.byte_outside,
    fun s h => ?_⟩
  · exact ⟨rfl, rfl, rfl, construct_mem_wf p hlo hhi, construct_mem_byte p⟩
  · constructor
    · rw [Safety.Hung, Safety.kind, decode_outside h]
      rfl
    · rw [step, decode_outside h]
      exact State.unchanged_eq s

end Sys2Proof.Machine
end

section
/-! PROOFS. Memory: its canonical form, the order of its bytes, and what the fetch after a store reads
(20_memory.md R61 to R64, R70, R74). -/

namespace Sys2Proof.Machine

open Sys2Proof.Claims

/-! ### The canonical form -/

/-- Settles O15: a next state is the state with one Delta applied, and applying a Delta's write keeps the canonical form. -/
theorem stepKeepsMemoryCanonical : Obligations.StepKeepsMemoryCanonical := by
  intro s t hwf h
  obtain ⟨δ, rfl⟩ := exec_appliesDelta _ s t h
  exact Memory.applyWrite_wf δ.write hwf

/-- Nothing is listed below the bound the cells rise from. -/
theorem findCell_below {lo a : Nat} {cells : List Host.Cell} (h : cellsRise lo cells = true) (ha : a < lo) :
    findCell cells a = none := by
  induction cells generalizing lo with
  | nil => rfl
  | cons p rest ih =>
    obtain ⟨b, x⟩ := p
    simp only [cellsRise, Bool.and_eq_true, decide_eq_true_eq] at h
    obtain ⟨hb, hrest⟩ := h
    rw [findCell, if_neg (by omega), ih hrest (by omega)]

/-- Rising cells that list the same byte at every address are the same cells. -/
theorem cells_ext {lo : Nat} {xs ys : List Host.Cell} (hx : cellsRise lo xs = true) (hy : cellsRise lo ys = true)
    (h : ∀ a, findCell xs a = findCell ys a) : xs = ys := by
  induction xs generalizing lo ys with
  | nil =>
    cases ys with
    | nil => rfl
    | cons q ys => simpa [findCell] using h q.1
  | cons p xs ih =>
    cases ys with
    | nil => simpa [findCell] using h p.1
    | cons q ys =>
      obtain ⟨a, u⟩ := p
      obtain ⟨b, v⟩ := q
      simp only [cellsRise, Bool.and_eq_true, decide_eq_true_eq] at hx hy
      obtain ⟨-, hx⟩ := hx
      obtain ⟨-, hy⟩ := hy
      have ha := h a
      have hb := h b
      -- The lesser of two unlike first addresses would be listed on one side only.
      obtain rfl : a = b := by
        rcases Nat.lt_trichotomy a b with hlt | heq | hlt
        · simp [findCell, hlt.ne', findCell_below hy (show a < b + 1 by omega)] at ha
        · exact heq
        · simp [findCell, hlt.ne', findCell_below hx (show b < a + 1 by omega)] at hb
      obtain rfl : u = v := by simpa [findCell] using ha
      rw [ih hx hy fun c => ?_]
      by_cases hc : a = c
      · subst hc
        rw [findCell_below hx (Nat.lt_succ_self a), findCell_below hy (Nat.lt_succ_self a)]
      · simpa [findCell, hc] using h c

/-- A listed byte lies inside Memory and is not the unwritten byte. -/
theorem cellsListed_findCell {size a : Nat} {v : Byte} {cells : List Host.Cell} (h : cellsListed size cells = true)
    (hfind : findCell cells a = some v) : a < size ∧ v ≠ Config.unwrittenByte := by
  induction cells with
  | nil => simp [findCell] at hfind
  | cons p rest ih =>
    obtain ⟨b, x⟩ := p
    simp only [cellsListed, Bool.and_eq_true, decide_eq_true_eq] at h
    obtain ⟨hcell, hrest⟩ := h
    by_cases hb : b = a
    · obtain rfl : x = v := by simpa [findCell, hb] using hfind
      exact hb ▸ hcell
    · exact ih hrest (by simpa [findCell, hb] using hfind)

/-- What a canonical memory lists at an address is the byte read there, where that is inside Memory and not the unwritten
byte. -/
theorem Memory.findCell_of_wf {m : Memory} (h : m.wf = true) (a : Nat) :
    findCell m.cells a =
      if a < m.size ∧ m.byte (BitVec.ofNat 32 a) ≠ Config.unwrittenByte then some (m.byte (BitVec.ofNat 32 a))
      else none := by
  obtain ⟨-, hsize, -, hlisted⟩ := (Memory.wf_iff m).mp h
  have hread : a < m.size → m.byte (BitVec.ofNat 32 a) = (findCell m.cells a).getD Config.unwrittenByte := by
    intro ha
    have hnum : (BitVec.ofNat 32 a).toNat = a := by rw [BitVec.toNat_ofNat]; omega
    rw [Memory.byte_inside (by rwa [hnum]), hnum]
  cases hcell : findCell m.cells a with
  | none =>
    rw [if_neg fun ⟨ha, hne⟩ => hne (by rw [hread ha, hcell]; rfl)]
  | some v =>
    obtain ⟨ha, hv⟩ := cellsListed_findCell hlisted hcell
    have hbyte : m.byte (BitVec.ofNat 32 a) = v := by rw [hread ha, hcell]; rfl
    rw [hbyte, if_pos ⟨ha, hv⟩]

/-- Settles O17: the bytes say what is listed at each address, and rising cells are determined by that. -/
theorem canonicalMemoryIsItsBytes : Obligations.CanonicalMemoryIsItsBytes := by
  intro m n hm hn hsize hbytes
  obtain ⟨-, -, hmrise, -⟩ := (Memory.wf_iff m).mp hm
  obtain ⟨-, -, hnrise, -⟩ := (Memory.wf_iff n).mp hn
  have hcells : m.cells = n.cells := cells_ext hmrise hnrise fun a => by
    rw [Memory.findCell_of_wf hm, Memory.findCell_of_wf hn, hsize, hbytes]
  cases m
  cases n
  exact congrArg₂ Memory.mk hsize hcells

/-! ### The order of the bytes (20_memory.md R64) -/

/-- One byte before a number of `n` bits takes the places below it. -/
theorem leWord_cons {n : Nat} {x : BitVec n} {bs : List Byte} (b : Byte) (h : leWord bs = x.setWidth 32) :
    leWord (b :: bs) = (x ++ b).setWidth 32 := by
  ext i hi
  rw [leWord, h]
  by_cases hlow : i < 8
  · simp [BitVec.getLsbD_append, hlow]
  · simp [BitVec.getLsbD_append, hlow, Nat.not_lt.mp hlow]

theorem leWord_singleton (b : Byte) : leWord [b] = b.setWidth 32 := by simp [leWord]

theorem leWord_two (b0 b1 : Byte) : leWord [b0, b1] = (halfOf b0 b1).setWidth 32 :=
  leWord_cons b0 (leWord_singleton b1)

theorem leWord_four (b0 b1 b2 b3 : Byte) : leWord [b0, b1, b2, b3] = wordOf b0 b1 b2 b3 :=
  (leWord_cons b0 (leWord_cons b1 (leWord_two b2 b3))).trans (BitVec.setWidth_eq _)

/-- Reading a width sees the bytes at the addresses from `a` on, as the multi-byte instruction fields do (R62, R64). -/
theorem Memory.read_byte (m : Memory) (a : Word) : m.read .byte a = (m.byte a).setWidth 32 :=
  leWord_singleton _

theorem Memory.read_word (m : Memory) (a : Word) :
    m.read .word a = (halfOf (m.byte a) (m.byte (a + 1))).setWidth 32 :=
  leWord_two _ _

theorem Memory.read_word_toNat (m : Memory) (a : Word) :
    (m.read .word a).toNat = (halfOf (m.byte a) (m.byte (a + 1))).toNat := by
  rw [Memory.read_word, BitVec.toNat_setWidth_of_le (by decide)]

theorem Memory.read_long (m : Memory) (a : Word) :
    m.read .long a = wordOf (m.byte a) (m.byte (a + 1)) (m.byte (a + 2)) (m.byte (a + 3)) := by
  rw [Memory.read, Width.bytes]
  simp only [Memory.readBytes, leWord_four, BitVec.add_assoc]
  rfl

/-- Byte `k` of a number, by its bits and by division. -/
theorem extractLsb'_byte (v : Word) (k : Nat) : v.extractLsb' (8 * k) 8 = BitVec.ofNat 8 (v.toNat / 256 ^ k) := by
  apply BitVec.eq_of_toNat_eq
  simp [Nat.shiftRight_eq_div_pow, Nat.pow_mul]

/-- A byte of a long stored inside Memory is the byte of its place. -/
theorem Memory.byte_write_long {m : Memory} {a : Word} (v : Word) {k : Nat} (hk : k < 4)
    (h : (a + BitVec.ofNat 32 k).toNat < m.size) :
    (m.write .long a v).byte (a + BitVec.ofNat 32 k) = v.extractLsb' (8 * k) 8 := by
  have hoff : (a + BitVec.ofNat 32 k - a).toNat = k := by
    rw [BitVec.add_comm, BitVec.add_sub_cancel, BitVec.toNat_ofNat]
    omega
  rw [Memory.byte_write, hoff, if_pos ⟨hk, h⟩]

theorem halfOf_extractLsb' (v : Word) (k : Nat) :
    halfOf (v.extractLsb' k 8) (v.extractLsb' (k + 8) 8) = v.extractLsb' k 16 :=
  BitVec.extractLsb'_append_extractLsb'_eq_extractLsb' rfl

theorem wordOf_extractLsb' (v : Word) :
    wordOf (v.extractLsb' 0 8) (v.extractLsb' 8 8) (v.extractLsb' 16 8) (v.extractLsb' 24 8) = v := by
  rw [wordOf, BitVec.extractLsb'_append_extractLsb'_eq_extractLsb', BitVec.extractLsb'_append_extractLsb'_eq_extractLsb',
    BitVec.extractLsb'_append_extractLsb'_eq_extractLsb', BitVec.extractLsb'_eq_self] <;> rfl

/-- A long stored inside Memory reads back as itself and, at the other widths, as its parts. -/
theorem Memory.read_write_long {m : Memory} {a : Word} (v : Word)
    (h : ∀ k, k < 4 → (a + BitVec.ofNat 32 k).toNat < m.size) :
    (m.write .long a v).read .long a = v ∧
    ((m.write .long a v).read .word a).toNat = v.toNat % 2 ^ 16 ∧
    ((m.write .long a v).read .word (a + 2)).toNat = v.toNat / 2 ^ 16 ∧
    ∀ k, k < 4 → ((m.write .long a v).read .byte (a + BitVec.ofNat 32 k)).toNat = v.toNat / 256 ^ k % 256 := by
  have hbyte : ∀ k, k < 4 → (m.write .long a v).byte (a + BitVec.ofNat 32 k) = v.extractLsb' (8 * k) 8 :=
    fun k hk => Memory.byte_write_long v hk (h k hk)
  have h0 : (m.write .long a v).byte a = v.extractLsb' 0 8 := by simpa using hbyte 0 (by decide)
  have h1 : (m.write .long a v).byte (a + 1) = v.extractLsb' 8 8 := hbyte 1 (by decide)
  have h2 : (m.write .long a v).byte (a + 2) = v.extractLsb' 16 8 := hbyte 2 (by decide)
  have h3 : (m.write .long a v).byte (a + 3) = v.extractLsb' 24 8 := hbyte 3 (by decide)
  refine ⟨?_, ?_, ?_, fun k hk => ?_⟩
  · rw [Memory.read_long, h0, h1, h2, h3, wordOf_extractLsb']
  · rw [Memory.read_word_toNat, h0, h1, halfOf_extractLsb' v 0]
    rfl
  · have hnext : a + 2 + 1 = a + 3 := BitVec.add_assoc a 2 1
    rw [Memory.read_word_toNat, hnext, h2, h3, halfOf_extractLsb' v 16, BitVec.extractLsb'_toNat,
      Nat.shiftRight_eq_div_pow]
    omega
  · rw [Memory.read_byte, BitVec.toNat_setWidth_of_le (by decide), hbyte k hk, extractLsb'_byte, BitVec.toNat_ofNat]

/-- The bytes the decoder takes are those at pc and after it (30_encoding.md R92). -/
theorem State.window_eq (s : State) : s.window =
    { b0 := s.mem.byte s.arch.pc, b1 := s.mem.byte (s.arch.pc + 1), b2 := s.mem.byte (s.arch.pc + 2),
      b3 := s.mem.byte (s.arch.pc + 3), b4 := s.mem.byte (s.arch.pc + 4), b5 := s.mem.byte (s.arch.pc + 5) } := by
  simp only [State.window, Memory.readBytes, BitVec.add_assoc]
  rfl

/-- The immediate of an instruction is what a data read of its width gives (30_encoding.md R96). -/
theorem State.window_imm (s : State) {w : Width} (h : s.window.tag = w.tag) :
    s.window.imm = s.mem.read w (s.arch.pc + 2) := by
  rw [Window.imm, h, State.window_eq]
  cases w with
  | byte => exact (Memory.read_byte _ _).symm
  | word => simp only [Memory.read_word, BitVec.add_assoc]; rfl
  | long => simp only [Memory.read_long, BitVec.add_assoc]; rfl

/-- Settles O18: data and instruction fields are both put together from the bytes at rising addresses. -/
theorem mixedWidthAccessesSeeTheSameBytes : Obligations.MixedWidthAccessesSeeTheSameBytes := by
  refine ⟨fun m a v h => Memory.read_write_long v h, fun s => ⟨?_, ?_, ?_, fun w h => State.window_imm s h⟩⟩
  · rw [Memory.read_word_toNat]
    rfl
  · rw [Memory.read_word_toNat, State.window_eq, BitVec.add_assoc]
    rfl
  · rw [Memory.read_long, State.window_eq]
    simp only [BitVec.add_assoc]
    rfl

/-! ### The fetch after a store -/

/-- A write in the words of the statements: the bytes it covers inside Memory are those of the value. -/
theorem memStored_of_write {s t : State} {w : Width} {a v : Word} (h : t.mem = s.mem.write w a v) :
    MemStored s t a w.bytes v := by
  intro x
  rw [h, Memory.byte_write, extractLsb'_byte]

theorem windowBytes_getD (s : State) {k : Nat} (hk : k < 6) :
    (windowBytes s.window).getD k 0 = s.mem.byte (s.arch.pc + BitVec.ofNat 32 k) := by
  rw [← Memory.readBytes_getD _ _ 6 k hk]
  rfl

/-- A PSH that does not stop stores the view, or the status byte at its one byte, below sp (41_data_move.md R159, R161). -/
theorem exec_psh (w : Width) (d : ViewIdx) (s : State) :
    exec (.psh w.tag d) s
      = .next { s with
          arch := { s.arch.advance 2 with sp := s.arch.spBelow (stackWidth w d) },
          mem := s.mem.write (stackWidth w d) (s.arch.spBelow (stackWidth w d))
            (s.arch.read .sbCapable (stackWidth w d) d) } :=
  atWidth_tag w _ _

/-- What PSH stores: the whole status byte at index 8, else the view at the width (R161). -/
theorem Arch.read_stackWidth (x : Arch) (w : Width) (d : ViewIdx) :
    x.read .sbCapable (stackWidth w d) d = if d = 8 then x.sb.setWidth 32 else x.read .sbCapable w d := by
  by_cases hd : d = 8
  · subst hd
    have hlt : (x.sb.setWidth 32).toNat < 2 ^ Width.byte.bits := by
      rw [BitVec.toNat_setWidth_of_le (by decide)]
      exact x.sb.isLt
    exact Width.and_mask_of_lt hlt
  · rw [if_neg hd, stackWidth, if_neg hd]

/-- The instruction completes in `s`, leaves `pc`, and of the six bytes fetched there each of the `n` bytes from `a` on
inside Memory is that of `v`, every other what stood there before. -/
def FetchSeesStore (s : State) (i : Instr) (pc a : Word) (n : Nat) (v : Word) : Prop :=
  ∃ t, exec i s = .next t ∧ t.arch.pc = pc ∧
    ∀ k, k < 6 →
      (windowBytes t.window).getD k 0 =
        (let x := pc + BitVec.ofNat 32 k
         let off := (x - a).toNat
         if off < n ∧ x.toNat < s.mem.size then BitVec.ofNat 8 (v.toNat / 256 ^ off) else s.mem.byte x)

/-- The write is applied before the next fetch (20_memory.md R70), so the fetch sees it. -/
theorem fetchSeesStore_of_write {i : Instr} {s : State} {x : Arch} {w : Width} {a v : Word}
    (h : exec i s = .next { s with arch := x, mem := s.mem.write w a v }) :
    FetchSeesStore s i x.pc a w.bytes v :=
  ⟨_, h, rfl, fun _ hk => (windowBytes_getD _ hk).trans (memStored_of_write rfl _)⟩

theorem fetchSeesStore_psh (s : State) (w : Width) (d : ViewIdx) :
    FetchSeesStore s (.psh w.tag d) (s.arch.pc + 2) (s.arch.spBelow (stackWidth w d)) (stackBytes w.tag d)
      (if d = 8 then s.arch.sb.setWidth 32 else s.arch.read .sbCapable w d) := by
  rw [stackBytes_tag, ← Arch.read_stackWidth]
  exact fetchSeesStore_of_write (exec_psh w d s)

/-- STO in either form stores the view at its address (R154, R155). -/
theorem fetchSeesStore_storeTo {i : Instr} {s : State} {w : Width} {d : ViewIdx} {a : Word}
    (h : exec i s = storeTo w.tag d a s) :
    FetchSeesStore s i (s.arch.pc + 4) a w.bytes (s.arch.read .plain w d) :=
  fetchSeesStore_of_write (h.trans (storeTo_tag w d a s))

/-- A call stores the pc after it as a long below sp (42_control_transfer.md R180). -/
theorem fetchSeesStore_callTo {i : Instr} {s : State} {n : Nat} {a : Word} (h : exec i s = callTo n a s) :
    FetchSeesStore s i a (s.arch.spBelow .long) 4 (s.arch.pcAfter n) :=
  fetchSeesStore_of_write (h.trans (callTo_eq n a s))

/-- Settles O20: each of the seven forms answers the state with its registers replaced and one write applied. -/
theorem nextFetchSeesTheStore : Obligations.NextFetchSeesTheStore := by
  intro s w d o f g
  simp only [List.forall_mem_cons]
  exact ⟨fetchSeesStore_storeTo rfl, fetchSeesStore_storeTo rfl, fetchSeesStore_psh s w d, fetchSeesStore_callTo rfl,
    fetchSeesStore_callTo rfl, fetchSeesStore_callTo rfl, fetchSeesStore_callTo rfl, nofun⟩

end Sys2Proof.Machine
end

section
/-! PROOFS. The fields of instruction bytes (30_encoding.md R92 to R96), put together and taken apart, and as numbers. -/

namespace Sys2Proof

/-! ### The operand byte (R93, R94) -/

@[simp] theorem lowNibble_operandByte (high low : BitVec 4) : lowNibble (operandByte high low) = low :=
  BitVec.extractLsb'_append_eq_right

@[simp] theorem highNibble_operandByte (high low : BitVec 4) : highNibble (operandByte high low) = high :=
  BitVec.extractLsb'_append_eq_left

theorem operandByte_nibbles (b : Byte) : operandByte (highNibble b) (lowNibble b) = b :=
  BitVec.extractLsb'_append_extractLsb' (w := 4) (len := 4)

@[simp] theorem TypeTag.ofBits_bits (t : TypeTag) : TypeTag.ofBits t.bits = t := by cases t <;> rfl

theorem TypeTag.bits_ofBits : ∀ x : BitVec 2, (TypeTag.ofBits x).bits = x := by decide

@[simp] theorem lowNibble_unaryByte (t : TypeTag) (d : ViewIdx) : lowNibble (unaryByte t d) = d :=
  BitVec.extractLsb'_append_eq_right

@[simp] theorem ofBits_unaryByte (t : TypeTag) (d : ViewIdx) :
    TypeTag.ofBits ((unaryByte t d).extractLsb' 4 2) = t := by
  have htag : (unaryByte t d).extractLsb' 4 2 = t.bits :=
    (BitVec.extractLsb'_append_eq_of_le (by decide)).trans BitVec.extractLsb'_append_eq_right
  rw [htag, TypeTag.ofBits_bits]

/-! ### The opcode byte with a type tag (R99, R102) -/

@[simp] theorem low2_taggedOpcode (h : BitVec 6) (t : TypeTag) : (taggedOpcode h t).extractLsb' 0 2 = t.bits :=
  BitVec.extractLsb'_append_eq_right

@[simp] theorem high6_taggedOpcode (h : BitVec 6) (t : TypeTag) : (taggedOpcode h t).extractLsb' 2 6 = h :=
  BitVec.extractLsb'_append_eq_left

@[simp] theorem highNibble_taggedOpcode (h : BitVec 6) (t : TypeTag) :
    highNibble (taggedOpcode h t) = h.extractLsb' 2 4 :=
  BitVec.extractLsb'_append_eq_of_le (by decide)

/-! ### Multi-byte fields (R92) -/

@[simp] theorem halfOf_bytes (v : Half) : halfOf (v.extractLsb' 0 8) (v.extractLsb' 8 8) = v :=
  BitVec.extractLsb'_append_extractLsb' (w := 8) (len := 8)

theorem halfBytes_halfOf (b0 b1 : Byte) : halfBytes (halfOf b0 b1) = [b0, b1] :=
  congrArg₂ (fun x y => [x, y]) BitVec.extractLsb'_append_eq_right BitVec.extractLsb'_append_eq_left

theorem wordBytes_wordOf (b0 b1 b2 b3 : Byte) : wordBytes (wordOf b0 b1 b2 b3) = [b0, b1, b2, b3] := by
  have h0 : (wordOf b0 b1 b2 b3).extractLsb' 0 8 = b0 := BitVec.extractLsb'_append_eq_right
  have h1 : (wordOf b0 b1 b2 b3).extractLsb' 8 8 = b1 :=
    (BitVec.extractLsb'_append_eq_of_le (by decide)).trans BitVec.extractLsb'_append_eq_right
  have h2 : (wordOf b0 b1 b2 b3).extractLsb' 16 8 = b2 :=
    (BitVec.extractLsb'_append_eq_of_le (by decide)).trans <|
      (BitVec.extractLsb'_append_eq_of_le (by decide)).trans BitVec.extractLsb'_append_eq_right
  have h3 : (wordOf b0 b1 b2 b3).extractLsb' 24 8 = b3 :=
    (BitVec.extractLsb'_append_eq_of_le (by decide)).trans <|
      (BitVec.extractLsb'_append_eq_of_le (by decide)).trans BitVec.extractLsb'_append_eq_left
  rw [wordBytes, h0, h1, h2, h3]


/-- An immediate that fits its n(T) bytes is the number of those bytes (R96). -/
theorem setWidth_extractLsb'_of_lt {v : Word} {n : Nat} (hn : n ≤ 32) (h : v.toNat < 2 ^ n) :
    (v.extractLsb' 0 n).setWidth 32 = v := by
  apply BitVec.eq_of_toNat_eq
  rw [BitVec.toNat_setWidth_of_le hn, BitVec.extractLsb'_toNat, Nat.shiftRight_zero, Nat.mod_eq_of_lt h]

/-- The immediate is read back from the bytes it is written to. -/
theorem Window.imm_ofBytes {t : TypeTag} {v : Word} {b0 : Byte} (htag : TypeTag.ofBits (b0.extractLsb' 0 2) = t)
    (hfits : immFits t v = true) (b1 : Byte) (rest : List Byte) :
    (Window.ofBytes (b0 :: b1 :: (immBytes t v ++ rest))).imm = v := by
  have hlt : v.toNat < 2 ^ (8 * t.bytes) := of_decide_eq_true hfits
  have hw : (Window.ofBytes (b0 :: b1 :: (immBytes t v ++ rest))).tag = t := htag
  rw [Window.imm, hw]
  cases t with
  | byte => exact setWidth_extractLsb'_of_lt (by decide) hlt
  | word => exact (congrArg _ (Machine.halfOf_extractLsb' v 0)).trans (setWidth_extractLsb'_of_lt (by decide) hlt)
  | long => exact Machine.wordOf_extractLsb' v
  | float => exact (BitVec.eq_of_toNat_eq (Nat.lt_one_iff.mp hlt)).symm

end Sys2Proof
end

section
/-! PROOFS. The instructions read back from their bytes (30_encoding.md R90, R95 to R104). -/

namespace Sys2Proof

open Laws.EncodedLength (Statement fixed immediate)

/-- The encoder writes as many bytes as the instruction is long, 1 to 6 (R90). -/
theorem encode_length_bounds (i : Instr) : Statement i := by
  cases i with
  | movImm t _ v | addImm t _ v | adcImm t _ v | subImm t _ v | sbcImm t _ v | cmpImm t _ v | andImm t _ v | orImm t _ v
  | xorImm t _ v | mulImm t _ v | divImm t _ v | modImm t _ v | powImm t _ v | minImm t _ v | maxImm t _ v =>
    exact immediate t _ _ v
  | _ => exact fixed _ rfl rfl rfl

/-- The high nibble of the opcode byte lies in its bits 7:2, so these fix the group of R91. -/
theorem highNibble_eq_high6 (b : Byte) : highNibble b = (b.extractLsb' 2 6).extractLsb' 2 4 := by
  ext k hk
  simp [highNibble, ← Nat.add_assoc, show 2 + k < 6 by omega]

/-! ### One lemma for each operand format

`hdec` says what the decoder answers for the opcode, whatever the operands: it is the row of the opcode map. -/

section

variable (rest : List Byte) {k : Byte} {h : BitVec 6} {t : TypeTag} {d r : ViewIdx}

theorem decode_encode_bare {i : Instr} (henc : encode i = [k]) (hdec : ∀ w : Window, w.b0 = k → decode w = i) :
    decode (Window.ofBytes (encode i ++ rest)) = i := by
  rw [henc]
  exact hdec _ rfl

theorem decode_encode_low {op : ViewIdx → Instr} (henc : encode (op d) = [k, operandByte 0 d])
    (hdec : ∀ w : Window, w.b0 = k → decode w = op w.d) : decode (Window.ofBytes (encode (op d) ++ rest)) = op d := by
  rw [henc, hdec _ rfl]
  exact congrArg op (lowNibble_operandByte 0 d)

theorem decode_encode_byte {op : Byte → Instr} {v : Byte} (henc : encode (op v) = [k, v])
    (hdec : ∀ w : Window, w.b0 = k → decode w = op w.b1) : decode (Window.ofBytes (encode (op v) ++ rest)) = op v := by
  rw [henc]
  exact hdec _ rfl

theorem decode_encode_short {op : Half → Instr} {v : Half} (henc : encode (op v) = k :: halfBytes v)
    (hdec : ∀ w : Window, w.b0 = k → decode w = op w.half1) :
    decode (Window.ofBytes (encode (op v) ++ rest)) = op v := by
  rw [henc, hdec _ rfl]
  exact congrArg op (halfOf_bytes v)

theorem decode_encode_long {op : Word → Instr} {v : Word} (henc : encode (op v) = k :: wordBytes v)
    (hdec : ∀ w : Window, w.b0 = k → decode w = op w.word1) :
    decode (Window.ofBytes (encode (op v) ++ rest)) = op v := by
  rw [henc, hdec _ rfl]
  exact congrArg op (Machine.wordOf_extractLsb' v)

theorem decode_encode_unary {op : TypeTag → ViewIdx → Instr} (henc : encode (op t d) = [k, unaryByte t d])
    (hdec : ∀ w : Window, w.b0 = k → decode w = op w.unaryTag w.d) :
    decode (Window.ofBytes (encode (op t d) ++ rest)) = op t d := by
  rw [henc, hdec _ rfl]
  exact congrArg₂ op (ofBits_unaryByte t d) (lowNibble_unaryByte t d)

theorem decode_encode_single {op : TypeTag → ViewIdx → Instr}
    (henc : encode (op t d) = [taggedOpcode h t, operandByte 0 d])
    (hdec : ∀ w : Window, w.b0.extractLsb' 2 6 = h → decode w = op w.tag w.d) :
    decode (Window.ofBytes (encode (op t d) ++ rest)) = op t d := by
  rw [henc, hdec _ (high6_taggedOpcode h t)]
  simp [Window.ofBytes, Window.tag, Window.d]

theorem decode_encode_pair {op : TypeTag → ViewIdx → ViewIdx → Instr}
    (henc : encode (op t d r) = [taggedOpcode h t, operandByte r d])
    (hdec : ∀ w : Window, w.b0.extractLsb' 2 6 = h → decode w = op w.tag w.d w.s) :
    decode (Window.ofBytes (encode (op t d r) ++ rest)) = op t d r := by
  rw [henc, hdec _ (high6_taggedOpcode h t)]
  simp [Window.ofBytes, Window.tag, Window.d, Window.s]

theorem decode_encode_direct {op : TypeTag → ViewIdx → Half → Instr} {v : Half}
    (henc : encode (op t d v) = taggedOpcode h t :: operandByte 0 d :: halfBytes v)
    (hdec : ∀ w : Window, w.b0.extractLsb' 2 6 = h → decode w = op w.tag w.d w.half2) :
    decode (Window.ofBytes (encode (op t d v) ++ rest)) = op t d v := by
  rw [henc, hdec _ (high6_taggedOpcode h t)]
  simp [Window.ofBytes, Window.tag, Window.d, Window.half2, halfBytes]

theorem decode_encode_indexed {op : TypeTag → ViewIdx → ViewIdx → Half → Instr} {v : Half}
    (henc : encode (op t d r v) = taggedOpcode h t :: operandByte r d :: halfBytes v)
    (hdec : ∀ w : Window, w.b0.extractLsb' 2 6 = h → decode w = op w.tag w.d w.s w.half2) :
    decode (Window.ofBytes (encode (op t d r v) ++ rest)) = op t d r v := by
  rw [henc, hdec _ (high6_taggedOpcode h t)]
  simp [Window.ofBytes, Window.tag, Window.d, Window.s, Window.half2, halfBytes]

theorem decode_encode_imm {op : TypeTag → ViewIdx → Word → Instr} {v : Word} (hfits : immFits t v = true)
    (henc : encode (op t d v) = taggedOpcode h t :: operandByte 0 d :: immBytes t v)
    (hdec : ∀ w : Window, w.b0.extractLsb' 2 6 = h → decode w = op w.tag w.d w.imm) :
    decode (Window.ofBytes (encode (op t d v) ++ rest)) = op t d v := by
  have htag : TypeTag.ofBits ((taggedOpcode h t).extractLsb' 0 2) = t := by simp
  rw [henc, hdec _ (high6_taggedOpcode h t), List.cons_append, List.cons_append, Window.imm_ofBytes htag hfits]
  simp [Window.ofBytes, Window.tag, Window.d]

theorem decode_encode_two {op : BitVec 2 → Instr} {low : BitVec 2} (henc : encode (op low) = [h ++ low])
    (hdec : ∀ w : Window, w.b0.extractLsb' 2 6 = h → decode w = op (w.b0.extractLsb' 0 2)) :
    decode (Window.ofBytes (encode (op low) ++ rest)) = op low := by
  rw [henc, hdec _ BitVec.extractLsb'_append_eq_left]
  exact congrArg op BitVec.extractLsb'_append_eq_right

/-- A row with three free opcode bits spans two values of bits 7:2. -/
theorem high6_append_three (h : BitVec 5) (low : BitVec 3) :
    (h ++ low).extractLsb' 2 6 = h ++ 0#1 ∨ (h ++ low).extractLsb' 2 6 = h ++ 1#1 := by
  have hbit : (h ++ low).extractLsb' 2 6 = h ++ low.extractLsb' 2 1 := by
    rw [BitVec.extractLsb'_append_eq_ite]
    simp
  have hvalue : ∀ x : BitVec 1, x = 0#1 ∨ x = 1#1 := by decide
  rw [hbit]
  exact (hvalue _).imp (congrArg (h ++ ·)) (congrArg (h ++ ·))

theorem decode_encode_three {op : BitVec 3 → Instr} {h : BitVec 5} {low : BitVec 3}
    (henc : encode (op low) = [h ++ low])
    (hdec : ∀ w : Window, w.b0.extractLsb' 2 6 = h ++ 0#1 ∨ w.b0.extractLsb' 2 6 = h ++ 1#1 →
      decode w = op (w.b0.extractLsb' 0 3)) :
    decode (Window.ofBytes (encode (op low) ++ rest)) = op low := by
  rw [henc, hdec _ (high6_append_three h low)]
  exact congrArg op BitVec.extractLsb'_append_eq_right

/-! ### Every row -/

/-- The low nibble of the reserved float group 0xFC-0xFF (R104). -/
theorem lowNibble_of_high6 : ∀ b : Byte, b.extractLsb' 2 6 = 0x3F#6 →
    lowNibble b = 0xC#4 ∨ lowNibble b = 0xD#4 ∨ lowNibble b = 0xE#4 ∨ lowNibble b = 0xF#4 := by decide

/-- What the encoder wrote, the decoder reads back: the constructors by their operand format. -/
theorem decode_encode {i : Instr} (hwf : i.wf = true) : decode (Window.ofBytes (encode i ++ rest)) = i := by
  cases i with
  | nop | hlt | wfi | ret | rfi | irq | nmi | unassigned07 | unassigned0B | unassigned0F =>
    exact decode_encode_bare rest rfl fun w hk => by simp [decode, decodeControl, highNibble, lowNibble, hk]
  | andsReg | orsReg | xorsReg =>
    exact decode_encode_low rest rfl fun w hk => by simp [decode, decodeControl, highNibble, lowNibble, hk]
  | andsImm | orsImm | xorsImm =>
    exact decode_encode_byte rest rfl fun w hk => by simp [decode, decodeControl, highNibble, lowNibble, hk]
  | lodDirect | stoDirect =>
    exact decode_encode_direct rest rfl fun w hk => by simp [decode, decodeDataMove, highNibble_eq_high6, hk]
  | lodIndexed | stoIndexed =>
    exact decode_encode_indexed rest rfl fun w hk => by simp [decode, decodeDataMove, highNibble_eq_high6, hk]
  | movReg | swp =>
    exact decode_encode_pair rest rfl fun w hk => by simp [decode, decodeDataMove, highNibble_eq_high6, hk]
  | movImm =>
    exact decode_encode_imm rest hwf rfl fun w hk => by simp [decode, decodeDataMove, highNibble_eq_high6, hk]
  | psh | pop =>
    exact decode_encode_single rest rfl fun w hk => by simp [decode, decodeDataMove, highNibble_eq_high6, hk]
  | jmp | jsr | jmpa | jsra =>
    exact decode_encode_short rest rfl fun w hk => by simp [decode, decodeJump, highNibble, hk]
  | jmpl | jsrl | jmpal | jsral =>
    exact decode_encode_long rest rfl fun w hk => by simp [decode, decodeJump, highNibble, hk]
  | bcc | bhc | bfc | btc | bic | bvc | bzc | bsc | bcs | bhs | bfs | bts | bis | bvs | bzs | bss =>
    exact decode_encode_short rest rfl fun w hk => by simp [decode, decodeBranch, highNibble, lowNibble, hk]
  | addReg | adcReg | subReg | sbcReg | cmpReg | andReg | orReg | xorReg | mulReg | divReg | modReg | powReg | minReg
  | maxReg =>
    exact decode_encode_pair rest rfl fun w hk => by simp [decode, decodeBinary, highNibble_eq_high6, hk]
  | addImm | adcImm | subImm | sbcImm | cmpImm | andImm | orImm | xorImm | mulImm | divImm | modImm | powImm | minImm
  | maxImm =>
    exact decode_encode_imm rest hwf rfl fun w hk => by simp [decode, decodeBinary, highNibble_eq_high6, hk]
  | inc | dec | tst | com | neg | abs | sxt | zxt | shl | shr | rol | ror =>
    exact decode_encode_unary rest rfl fun w hk => by simp [decode, decodeUnary, highNibble, lowNibble, hk]
  | unassigned18 | unassigned28 | unassigned38 | unassigned48 | unassigned58 =>
    exact decode_encode_three rest rfl fun w hk => by
      rcases hk with hk | hk <;> simp [decode, decodeDataMove, highNibble_eq_high6, hk]
  | unassigned44 =>
    exact decode_encode_two rest rfl fun w hk => by simp [decode, decodeDataMove, highNibble_eq_high6, hk]
  | unassignedFC =>
    exact decode_encode_two rest rfl fun w hk => by
      rcases lowNibble_of_high6 _ hk with hlow | hlow | hlow | hlow <;>
        simp [decode, decodeUnary, highNibble_eq_high6, hk, hlow]

end

/-- Settles O1: the decoder chooses the row of the opcode byte and reads back the fields the encoder wrote. -/
theorem encodedInstructionsDecodeBack : Obligations.EncodedInstructionsDecodeBack := by
  intro i rest hwf
  obtain ⟨hlen, -, -⟩ := encode_length_bounds i
  simp [decodeStream, decode_encode rest hwf, ← hlen]

end Sys2Proof
end

section
/-! PROOFS. The bytes an instruction was read from (30_encoding.md R95 to R104, R112, R115): the decoder's answer is well
formed, and encodes to those bytes with the ignored bits cleared. -/

namespace Sys2Proof

open Claims

/-! ### The ignored bits, byte by byte (R112) -/

/-- The opcode byte with its ignored bit cleared: bit 3 of the jumps (R100, R189). -/
def clearedOpcode (b : Byte) : Byte := if 0x60 ≤ b.toNat ∧ b.toNat ≤ 0x6F then b &&& 0xF7 else b

/-- The byte after the opcode `b` with its ignored bits cleared, put together from the fields that are read (R93, R94). -/
def clearedOperand (b x : Byte) : Byte :=
  if ignoresHighNibble b.toNat then operandByte 0 (lowNibble x)
  else if 0xF0 ≤ b.toNat ∧ b.toNat ≤ 0xFB then unaryByte (TypeTag.ofBits (x.extractLsb' 4 2)) (lowNibble x)
  else x

theorem and_0F : ∀ x : Byte, x &&& 0x0F = operandByte 0 (lowNibble x) := by decide

theorem and_3F : ∀ x : Byte, x &&& 0x3F = unaryByte (TypeTag.ofBits (x.extractLsb' 4 2)) (lowNibble x) := by decide

theorem ignoresHighNibble_not_jump {n : Nat} (h : ignoresHighNibble n = true) : ¬ (0x60 ≤ n ∧ n ≤ 0x6F) := by
  simp [ignoresHighNibble] at h
  omega

theorem clearIgnored_eq (w : Window) :
    clearIgnored w = { w with b0 := clearedOpcode w.b0, b1 := clearedOperand w.b0 w.b1 } := by
  simp only [clearIgnored, clearedOpcode, clearedOperand, and_0F, and_3F, Bool.and_eq_true, decide_eq_true_eq]
  split
  · next h => rw [if_neg (ignoresHighNibble_not_jump h)]
  · split
    · next h => rw [if_neg (by omega)]
    · split <;> rfl

theorem windowBytes_clearIgnored (w : Window) :
    windowBytes (clearIgnored w) =
      clearedOpcode w.b0 :: clearedOperand w.b0 w.b1 :: [w.b2, w.b3, w.b4, w.b5] := by
  rw [clearIgnored_eq]
  rfl

/-! ### The opcode byte from its parts -/

theorem opcode_of_high6 {b : Byte} {h : BitVec 6} (hrow : b.extractLsb' 2 6 = h) : h ++ b.extractLsb' 0 2 = b := by
  rw [← hrow]
  exact BitVec.extractLsb'_append_extractLsb' (w := 6) (len := 2)

theorem taggedOpcode_of_high6 {w : Window} {h : BitVec 6} (hrow : w.b0.extractLsb' 2 6 = h) :
    taggedOpcode h w.tag = w.b0 := by
  rw [taggedOpcode, Window.tag, TypeTag.bits_ofBits, opcode_of_high6 hrow]

theorem opcode_of_nibbles {b : Byte} {high low : BitVec 4} (hhigh : highNibble b = high) (hlow : lowNibble b = low) :
    b = operandByte high low := by
  rw [← hhigh, ← hlow, operandByte_nibbles]

theorem high6_div_four (b : Byte) : (b.extractLsb' 2 6).toNat / 4 = (highNibble b).toNat := by
  simp only [highNibble, BitVec.extractLsb'_toNat, Nat.shiftRight_eq_div_pow]
  omega

/-! ### The operand formats -/

/-- An instruction the bytes `w` hold: it is well formed, and they begin with its encoding once the ignored bits are
cleared. -/
structure ReadsAs (w : Window) (i : Instr) : Prop where
  wf : i.wf = true
  bytes : encode i <+: windowBytes (clearIgnored w)

section

variable {w : Window} {i : Instr} {k : Byte} {h : BitVec 6} {tail : List Byte}

theorem readsAs_of_bytes (hwf : i.wf = true) (htail : tail <+: [w.b2, w.b3, w.b4, w.b5])
    (henc : encode i = clearedOpcode w.b0 :: clearedOperand w.b0 w.b1 :: tail) : ReadsAs w i where
  wf := hwf
  bytes := by
    rw [henc, windowBytes_clearIgnored, List.cons_prefix_cons, List.cons_prefix_cons]
    exact ⟨rfl, rfl, htail⟩

theorem readsAs_bare (hwf : i.wf = true) (henc : encode i = [clearedOpcode w.b0]) : ReadsAs w i where
  wf := hwf
  bytes := by
    rw [henc, windowBytes_clearIgnored]
    exact ⟨_, rfl⟩

/-- An opcode that ignores the high nibble of the operand byte (R112). -/
theorem clearedOperand_of_ignores {b : Byte} (hb : ignoresHighNibble b.toNat = true) (x : Byte) :
    clearedOperand b x = operandByte 0 (lowNibble x) := if_pos hb

/-- An opcode that reads every bit of the byte after it. -/
def readsWholeOperand (b : Byte) : Bool := !ignoresHighNibble b.toNat && !(0xF0 ≤ b.toNat && b.toNat ≤ 0xFB)

theorem clearedOperand_of_whole {b : Byte} (hb : readsWholeOperand b = true) (x : Byte) : clearedOperand b x = x := by
  simp only [readsWholeOperand, Bool.and_eq_true, Bool.not_eq_true', Bool.and_eq_false_iff, decide_eq_false_iff_not] at hb
  obtain ⟨hlow, hunary⟩ := hb
  rw [clearedOperand, if_neg (by simp [hlow]), if_neg (by omega)]

/-- The forms that ignore the high nibble: R1, RI, direct M. -/
theorem readsAs_low (hrow : w.b0.extractLsb' 2 6 = h)
    (hlow : ∀ x : BitVec 2, ignoresHighNibble (h ++ x).toNat = true ∧ clearedOpcode (h ++ x) = h ++ x)
    (hwf : i.wf = true) (htail : tail <+: [w.b2, w.b3, w.b4, w.b5])
    (henc : encode i = taggedOpcode h w.tag :: operandByte 0 w.d :: tail) : ReadsAs w i := by
  obtain ⟨hignores, hcode⟩ : ignoresHighNibble (taggedOpcode h w.tag).toNat = true ∧
      clearedOpcode (taggedOpcode h w.tag) = taggedOpcode h w.tag := hlow w.tag.bits
  refine readsAs_of_bytes hwf htail ?_
  rw [henc, ← taggedOpcode_of_high6 hrow, clearedOperand_of_ignores hignores, hcode]
  rfl

/-- The forms that read the whole operand byte: RR, SWP, indexed M. -/
theorem readsAs_whole (hrow : w.b0.extractLsb' 2 6 = h)
    (hwhole : ∀ x : BitVec 2, readsWholeOperand (h ++ x) = true ∧ clearedOpcode (h ++ x) = h ++ x)
    (hwf : i.wf = true) (htail : tail <+: [w.b2, w.b3, w.b4, w.b5])
    (henc : encode i = taggedOpcode h w.tag :: operandByte w.s w.d :: tail) : ReadsAs w i := by
  obtain ⟨hreads, hcode⟩ : readsWholeOperand (taggedOpcode h w.tag) = true ∧
      clearedOpcode (taggedOpcode h w.tag) = taggedOpcode h w.tag := hwhole w.tag.bits
  refine readsAs_of_bytes hwf htail ?_
  rw [henc, ← taggedOpcode_of_high6 hrow, clearedOperand_of_whole hreads, hcode, Window.s, Window.d,
    operandByte_nibbles]

/-- A row with two free opcode bits and nothing after the opcode. -/
theorem readsAs_two (hrow : w.b0.extractLsb' 2 6 = h) (hcode : ∀ x : BitVec 2, clearedOpcode (h ++ x) = h ++ x)
    (hwf : i.wf = true) (henc : encode i = [h ++ w.b0.extractLsb' 0 2]) : ReadsAs w i := by
  refine readsAs_bare hwf ?_
  rw [henc, ← hcode, opcode_of_high6 hrow]

/-- A row with three free opcode bits and nothing after the opcode. -/
theorem readsAs_three (hrow : w.b0.extractLsb' 2 6 = h) (hcode : ∀ x : BitVec 2, clearedOpcode (h ++ x) = h ++ x)
    (hwf : i.wf = true) (henc : encode i = [h.extractLsb' 1 5 ++ w.b0.extractLsb' 0 3]) : ReadsAs w i := by
  have hsplit : ∀ b : Byte, (b.extractLsb' 2 6).extractLsb' 1 5 ++ b.extractLsb' 0 3 = b := by decide
  have hkept : clearedOpcode w.b0 = w.b0 := opcode_of_high6 hrow ▸ hcode (w.b0.extractLsb' 0 2)
  refine readsAs_bare hwf ?_
  rw [henc, hkept, ← hrow, hsplit]

/-- The opcode and a 16-bit field. -/
theorem readsAs_short (hcode : clearedOpcode w.b0 = k) (hwhole : readsWholeOperand w.b0 = true) (hwf : i.wf = true)
    (henc : encode i = k :: halfBytes w.half1) : ReadsAs w i := by
  refine readsAs_of_bytes (tail := [w.b2]) hwf ⟨_, rfl⟩ ?_
  rw [henc, hcode, clearedOperand_of_whole hwhole, Window.half1, halfBytes_halfOf]

/-- The opcode and a 32-bit field. -/
theorem readsAs_long (hcode : clearedOpcode w.b0 = k) (hwhole : readsWholeOperand w.b0 = true) (hwf : i.wf = true)
    (henc : encode i = k :: wordBytes w.word1) : ReadsAs w i := by
  refine readsAs_of_bytes (tail := [w.b2, w.b3, w.b4]) hwf ⟨_, rfl⟩ ?_
  rw [henc, hcode, clearedOperand_of_whole hwhole, Window.word1, wordBytes_wordOf]

end

/-! ### The bytes after the operand byte -/

theorem half2_begins (w : Window) : halfBytes w.half2 <+: [w.b2, w.b3, w.b4, w.b5] := by
  rw [Window.half2, halfBytes_halfOf]
  exact ⟨_, rfl⟩

/-- The immediate has the bytes it was read from (R96); under Float, none (log 8). -/
theorem imm_begins (w : Window) : immBytes w.tag w.imm <+: [w.b2, w.b3, w.b4, w.b5] := by
  rw [Window.imm]
  cases w.tag with
  | byte => simp [immBytes, BitVec.extractLsb'_setWidth_of_le]
  | word =>
    have hbytes : immBytes .word ((halfOf w.b2 w.b3).setWidth 32) = halfBytes (halfOf w.b2 w.b3) := by
      simp [immBytes, halfBytes, BitVec.extractLsb'_setWidth_of_le]
    exact hbytes ▸ half2_begins w
  | long =>
    simp only [immBytes, wordBytes_wordOf]
    exact List.prefix_rfl
  | float => exact List.nil_prefix

theorem imm_fits (w : Window) : immFits w.tag w.imm = true := by
  rw [Window.imm]
  refine decide_eq_true ?_
  cases w.tag with
  | byte => exact (BitVec.toNat_setWidth_of_le (by decide)).trans_lt w.b2.isLt
  | word => exact (BitVec.toNat_setWidth_of_le (by decide)).trans_lt (halfOf w.b2 w.b3).isLt
  | long => exact BitVec.isLt _
  | float => exact Nat.one_pos

/-! ### Each group of the opcode map

In the last case of a match no earlier pattern fits, which leaves one value of the opcode's field, or a few. -/

theorem readsAs_decodeControl {w : Window} (hgroup : highNibble w.b0 = 0x0#4) : ReadsAs w (decodeControl w) := by
  fun_cases decodeControl w with
  -- NOP, HLT, WFI, RET, RFI, IRQ, NMI, 0x07, 0x0B
  | case1 h | case2 h | case3 h | case4 h | case5 h | case6 h | case7 h | case8 h | case12 h =>
    refine readsAs_bare rfl ?_
    rw [opcode_of_nibbles hgroup h]
    rfl
  -- ANDS, ORS, XORS of a register and of an immediate
  | case9 h | case10 h | case11 h | case13 h | case14 h | case15 h =>
    refine readsAs_of_bytes rfl List.nil_prefix ?_
    rw [opcode_of_nibbles hgroup h]
    rfl
  -- 0x0F
  | case16 =>
    refine readsAs_bare rfl ?_
    have h : lowNibble w.b0 = 0xF#4 := by
      simp only [imp_false] at *
      bv_omega
    rw [opcode_of_nibbles hgroup h]
    rfl

theorem readsAs_decodeDataMove {w : Window} (hlo : 1 ≤ (highNibble w.b0).toNat) (hhi : (highNibble w.b0).toNat ≤ 5) :
    ReadsAs w (decodeDataMove w) := by
  fun_cases decodeDataMove w with
  -- direct LOD and STO
  | case1 h | case5 h => exact readsAs_low h (by decide) rfl (half2_begins w) rfl
  -- indexed LOD and STO
  | case2 h | case6 h => exact readsAs_whole h (by decide) rfl (half2_begins w) rfl
  -- 0x18-0x1F, 0x28-0x2F, 0x38-0x3F, 0x48-0x4F
  | case3 h | case4 h | case7 h | case8 h | case11 h | case12 h | case15 h | case16 h =>
    exact readsAs_three h (by decide) rfl rfl
  -- MOV and SWP of registers
  | case9 h | case13 h => exact readsAs_whole h (by decide) rfl List.nil_prefix rfl
  -- MOV of an immediate
  | case10 h => exact readsAs_low h (by decide) (imm_fits w) (imm_begins w) rfl
  -- 0x44-0x47
  | case14 h => exact readsAs_two h (by decide) rfl rfl
  -- PSH and POP
  | case17 h | case18 h => exact readsAs_low h (by decide) rfl List.nil_prefix rfl
  -- 0x58-0x5F
  | case19 =>
    have hrow : w.b0.extractLsb' 2 6 = 0x16#6 ∨ w.b0.extractLsb' 2 6 = 0x17#6 := by
      rw [← high6_div_four] at hlo hhi
      generalize w.b0.extractLsb' 2 6 = x at *
      simp only [imp_false] at *
      bv_omega
    rcases hrow with h | h
    · exact readsAs_three h (by decide) rfl rfl
    · exact readsAs_three h (by decide) rfl rfl

theorem readsAs_decodeJump {w : Window} (hgroup : highNibble w.b0 = 0x6#4) : ReadsAs w (decodeJump w) := by
  have hwhole : ∀ b : Byte, highNibble b = 0x6#4 → readsWholeOperand b = true := by decide
  have hcode : ∀ b : Byte, highNibble b = 0x6#4 → clearedOpcode b = 0xC#5 ++ b.extractLsb' 0 3 := by decide
  fun_cases decodeJump w with
  -- JMP, JSR, JMPA, JSRA
  | case1 h | case3 h | case5 h | case7 h =>
    exact readsAs_short ((hcode _ hgroup).trans (congrArg _ h)) (hwhole _ hgroup) rfl rfl
  -- JMPL, JSRL, JMPAL
  | case2 h | case4 h | case6 h =>
    exact readsAs_long ((hcode _ hgroup).trans (congrArg _ h)) (hwhole _ hgroup) rfl rfl
  -- JSRAL
  | case8 =>
    have h : w.b0.extractLsb' 0 3 = 7#3 := by
      simp only [imp_false] at *
      bv_omega
    exact readsAs_long ((hcode _ hgroup).trans (congrArg _ h)) (hwhole _ hgroup) rfl rfl

theorem readsAs_decodeBranch {w : Window} (hgroup : highNibble w.b0 = 0x7#4) : ReadsAs w (decodeBranch w) := by
  have hwhole : ∀ b : Byte, highNibble b = 0x7#4 → readsWholeOperand b = true := by decide
  have hcode : ∀ b : Byte, highNibble b = 0x7#4 → clearedOpcode b = operandByte 0x7 (lowNibble b) := by decide
  fun_cases decodeBranch w with
  -- BSS
  | case16 =>
    have h : lowNibble w.b0 = 0xF#4 := by
      simp only [imp_false] at *
      bv_omega
    exact readsAs_short ((hcode _ hgroup).trans (congrArg _ h)) (hwhole _ hgroup) rfl rfl
  -- BCC to BZS
  | _ h => exact readsAs_short ((hcode _ hgroup).trans (congrArg _ h)) (hwhole _ hgroup) rfl rfl

theorem readsAs_decodeBinary {w : Window} (hlo : 8 ≤ (highNibble w.b0).toNat) (hhi : (highNibble w.b0).toNat < 15) :
    ReadsAs w (decodeBinary w) := by
  fun_cases decodeBinary w with
  -- the register forms: the immediate bit is clear
  | case1 h | case3 h | case5 h | case7 h | case9 h | case11 h | case13 h | case15 h | case17 h | case19 h | case21 h
  | case23 h | case25 h | case27 h => exact readsAs_whole h (by decide) rfl List.nil_prefix rfl
  -- the immediate forms
  | case2 h | case4 h | case6 h | case8 h | case10 h | case12 h | case14 h | case16 h | case18 h | case20 h | case22 h
  | case24 h | case26 h => exact readsAs_low h (by decide) (imm_fits w) (imm_begins w) rfl
  -- MAX of an immediate
  | case28 =>
    have h : w.b0.extractLsb' 2 6 = 0x3B#6 := by
      rw [← high6_div_four] at hlo hhi
      generalize w.b0.extractLsb' 2 6 = x at *
      simp only [imp_false] at *
      bv_omega
    exact readsAs_low h (by decide) (imm_fits w) (imm_begins w) rfl

theorem readsAs_decodeUnary {w : Window} (hgroup : highNibble w.b0 = 0xF#4) : ReadsAs w (decodeUnary w) := by
  fun_cases decodeUnary w with
  -- 0xFC-0xFF
  | case13 =>
    have hrow : ∀ b : Byte, highNibble b = 0xF#4 → 0xC#4 ≤ lowNibble b → b.extractLsb' 2 6 = 0x3F#6 := by decide
    have h : 0xC#4 ≤ lowNibble w.b0 := by
      simp only [imp_false] at *
      bv_omega
    exact readsAs_two (hrow _ hgroup h) (by decide) rfl rfl
  -- INC to ROR
  | _ h =>
    refine readsAs_of_bytes rfl List.nil_prefix ?_
    rw [opcode_of_nibbles hgroup h]
    rfl

/-- Whatever the bytes, the decoder's answer is read from them: by the groups of R91. -/
theorem decode_readsAs (w : Window) : ReadsAs w (decode w) := by
  fun_cases decode w with
  | case1 h => exact readsAs_decodeControl h
  | case2 h | case3 h | case4 h | case5 h | case6 h => exact readsAs_decodeDataMove (by simp [h]) (by simp [h])
  | case7 h => exact readsAs_decodeJump h
  | case8 h => exact readsAs_decodeBranch h
  | case9 h => exact readsAs_decodeUnary h
  | case10 =>
    simp only [imp_false] at *
    exact readsAs_decodeBinary (by bv_omega) (by bv_omega)

/-- Settles O4: what is read from bytes is well formed. -/
theorem decodedInstructionsAreWellFormed : Obligations.DecodedInstructionsAreWellFormed :=
  fun w => (decode_readsAs w).wf

/-- Settles O2: the cleared bytes begin with the encoding of what was decoded, which is as long as the instruction. -/
theorem decodedBytesEncodeBack : Obligations.DecodedBytesEncodeBack := by
  intro w
  obtain ⟨hlen, -, -⟩ := encode_length_bounds (decode w)
  rw [← hlen]
  exact List.prefix_iff_eq_take.mp (decode_readsAs w).bytes

end Sys2Proof
end

section
/-! PROOFS. What the two round trips give: the ignored bits and the unary operand byte (30_encoding.md R94, R112). -/

namespace Sys2Proof

open Claims

/-! ### The ignored bits -/

/-- The ignored bits are not read: the cleared bytes begin with the encoding of the answer, which decodes to it. -/
theorem decode_clearIgnored (w : Window) : decode (clearIgnored w) = decode w := by
  obtain ⟨hwf, rest, hbytes⟩ := decode_readsAs w
  have hback : decode (Window.ofBytes (encode (decode w) ++ rest)) = decode w := decode_encode rest hwf
  rwa [hbytes] at hback

/-- Settles O5: each of the two decodes as its cleared bytes do. -/
theorem ignoredBitsChangeNothing : Obligations.IgnoredBitsChangeNothing := by
  intro w v h
  rw [← decode_clearIgnored w, h, decode_clearIgnored v]

/-! ### The unary operand byte (R94) -/

theorem clearedOpcode_of_unary : ∀ b : Byte, 0xF0 ≤ b.toNat → clearedOpcode b = b := by decide

theorem clearedOpcode_below_unary : ∀ b : Byte, b.toNat < 0xF0 → (clearedOpcode b).toNat < 0xF0 := by decide

theorem clearedOperand_unary {k : Byte} (hk : 0xF0 ≤ k.toNat ∧ k.toNat ≤ 0xFB) (x : Byte) :
    clearedOperand k x = unaryByte (TypeTag.ofBits (x.extractLsb' 4 2)) (lowNibble x) := by
  have hreads : ignoresHighNibble k.toNat ≠ true := by
    simp [ignoresHighNibble]
    omega
  rw [clearedOperand, if_neg hreads, if_pos hk]

theorem tagNumber_ofBits : ∀ x : BitVec 2, tagNumber (TypeTag.ofBits x) = x.toNat := by decide

theorem unaryTag_number (x : Byte) : tagNumber (TypeTag.ofBits (x.extractLsb' 4 2)) = x.toNat / 16 % 4 := by
  rw [tagNumber_ofBits, BitVec.extractLsb'_toNat, Nat.shiftRight_eq_div_pow]

theorem lowNibble_toNat (x : Byte) : (lowNibble x).toNat = x.toNat % 16 := by
  rw [lowNibble, BitVec.extractLsb'_toNat, Nat.shiftRight_zero]

/-- Where a unary operation is decoded: its opcode, and its operands in the fields of R94. -/
theorem unary_decoded {op : TypeTag → ViewIdx → Instr} {k : Byte} (hk : 0xF0 ≤ k.toNat ∧ k.toNat ≤ 0xFB)
    (henc : ∀ t d, encode (op t d) = [k, unaryByte t d]) {w : Window} {t : TypeTag} {d : ViewIdx}
    (h : decode w = op t d) :
    w.b0 = k ∧ t = TypeTag.ofBits (w.b1.extractLsb' 4 2) ∧ d = lowNibble w.b1 := by
  have hbytes := (decode_readsAs w).bytes
  rw [h, henc, windowBytes_clearIgnored, List.cons_prefix_cons, List.cons_prefix_cons] at hbytes
  obtain ⟨hcode, hoperand, -⟩ := hbytes
  have hunary : 0xF0 ≤ w.b0.toNat :=
    Nat.not_lt.mp fun hlow => (clearedOpcode_below_unary w.b0 hlow).not_ge (hcode ▸ hk.1)
  have hb : w.b0 = k := by rw [hcode, clearedOpcode_of_unary _ hunary]
  rw [hb, clearedOperand_unary hk] at hoperand
  refine ⟨hb, ?_, ?_⟩
  · rw [← ofBits_unaryByte t d, hoperand, ofBits_unaryByte]
  · rw [← lowNibble_unaryByte t d, hoperand, lowNibble_unaryByte]

/-- Bits 7:6 of a unary operand byte are ignored (R112). -/
theorem clearIgnored_unary {w : Window} (hk : 0xF0 ≤ w.b0.toNat ∧ w.b0.toNat ≤ 0xFB) (high : BitVec 2) :
    clearIgnored { w with b1 := high ++ w.b1.extractLsb' 0 6 } = clearIgnored w := by
  have htag : (high ++ w.b1.extractLsb' 0 6).extractLsb' 4 2 = w.b1.extractLsb' 4 2 := by
    rw [BitVec.extractLsb'_append_eq_of_add_le (by decide), BitVec.extractLsb'_extractLsb'_of_le (by decide)]
  have hreg : lowNibble (high ++ w.b1.extractLsb' 0 6) = lowNibble w.b1 := by
    rw [lowNibble, BitVec.extractLsb'_append_eq_of_add_le (by decide), BitVec.extractLsb'_extractLsb'_of_le (by decide)]
    rfl
  simp only [clearIgnored_eq, clearedOperand_unary hk]
  rw [htag, hreg]

/-- The fields of R94 for one unary operation: tag and register where it is decoded, and bits 7:6 left unread. -/
def UnaryFields (op : TypeTag → ViewIdx → Instr) : Prop :=
  ∀ (w : Window) (t : TypeTag) (d : ViewIdx), decode w = op t d →
    tagNumber t = w.b1.toNat / 16 % 4 ∧ d.toNat = w.b1.toNat % 16 ∧
      ∀ high : BitVec 2, decode { w with b1 := high ++ w.b1.extractLsb' 0 6 } = op t d

theorem unaryFields_of_encode {op : TypeTag → ViewIdx → Instr} {k : Byte}
    (henc : ∀ t d, encode (op t d) = [k, unaryByte t d]) (hk : 0xF0 ≤ k.toNat ∧ k.toNat ≤ 0xFB) : UnaryFields op := by
  intro w t d h
  obtain ⟨hb, htag, hreg⟩ := unary_decoded hk henc h
  refine ⟨htag ▸ unaryTag_number w.b1, hreg ▸ lowNibble_toNat w.b1, fun high => ?_⟩
  rw [← h]
  exact ignoredBitsChangeNothing _ _ (clearIgnored_unary (hb ▸ hk) high)

/-- Settles O7: what is decoded encodes back to its opcode and operand byte, whose fields are those read. -/
theorem unaryOperandByteFields : Obligations.UnaryOperandByteFields := by
  change ∀ op ∈ _, UnaryFields op
  simp only [List.forall_mem_cons]
  refine ⟨?_, ?_, ?_, ?_, ?_, ?_, ?_, ?_, ?_, ?_, ?_, ?_, nofun⟩ <;>
    exact unaryFields_of_encode (fun _ _ => rfl) (by decide)

end Sys2Proof
end

section
/-! PROOFS. The outcome of every opcode byte (30_encoding.md R98 to R104, R110, R111). -/

namespace Sys2Proof

open Claims Machine

/-- The outcome R98 to R104, R110 and R111 give to an opcode byte and the byte after it. -/
def opcodeOutcome (b0 b1 : Byte) : StepKind :=
  let n := b0.toNat
  if n = 1 then .halt
  else if n = 2 ∨ unassignedOpcode n = true then .stuck
  else if n = 4 ∨ n = 5 ∨ n = 6 ∨ floatOpcode n = true ∨ (0xF0 ≤ n ∧ b1.toNat / 16 % 4 = 3) then .refuse
  else .delta

theorem opcodeOutcome_unassigned {b0 : Byte} (h : unassignedOpcode b0.toNat = true) (b1 : Byte) :
    opcodeOutcome b0 b1 = .stuck := by
  have hne : b0.toNat ≠ 1 := fun h1 => by simp [h1, unassignedOpcode] at h
  simp [opcodeOutcome, h, hne]

theorem opcodeOutcome_unary {k : Byte} (hk : 0xF0 ≤ k.toNat ∧ k.toNat ≤ 0xFB) (t : TypeTag) (d : ViewIdx) :
    opcodeOutcome k (unaryByte t d) = tagKind t := by
  have hassigned : unassignedOpcode k.toNat = false := by
    simp [unassignedOpcode]
    omega
  have hfloat : floatOpcode k.toNat = false := by
    simp [floatOpcode]
    omega
  have htag : (unaryByte t d).toNat / 16 % 4 = tagNumber t := by rw [← unaryTag_number, ofBits_unaryByte]
  have hfixed : ∀ n : Nat, n < 0xF0 → k.toNat ≠ n := by omega
  cases t <;> simp [opcodeOutcome, hassigned, hfloat, htag, hk.1, hfixed, tagNumber, tagKind]

/-- Below the unary group the opcode byte alone fixes the outcome. -/
theorem opcodeOutcome_below_unary {b : Byte} (hb : b.toNat < 0xF0) (x y : Byte) :
    opcodeOutcome b x = opcodeOutcome b y := by
  simp [opcodeOutcome, Nat.not_le.mpr hb]

theorem opcodeOutcome_clearedOpcode : ∀ b : Byte, opcodeOutcome (clearedOpcode b) 0 = opcodeOutcome b 0 := by decide

theorem readsWholeOperand_reserved : ∀ b : Byte, 0xFB < b.toNat → readsWholeOperand b = true := by decide

/-- No ignored bit changes the outcome. -/
theorem opcodeOutcome_cleared (b0 b1 : Byte) :
    opcodeOutcome (clearedOpcode b0) (clearedOperand b0 b1) = opcodeOutcome b0 b1 := by
  rcases Nat.lt_or_ge b0.toNat 0xF0 with hlow | hhigh
  · calc
      _ = opcodeOutcome (clearedOpcode b0) 0 := opcodeOutcome_below_unary (clearedOpcode_below_unary b0 hlow) _ _
      _ = opcodeOutcome b0 0 := opcodeOutcome_clearedOpcode b0
      _ = opcodeOutcome b0 b1 := opcodeOutcome_below_unary hlow _ _
  · rw [clearedOpcode_of_unary b0 hhigh]
    rcases Nat.lt_or_ge 0xFB b0.toNat with hreserved | hunary
    · rw [clearedOperand_of_whole (readsWholeOperand_reserved b0 hreserved)]
    · have htag : (clearedOperand b0 b1).toNat / 16 % 4 = b1.toNat / 16 % 4 := by
        rw [clearedOperand_unary ⟨hhigh, hunary⟩, ← unaryTag_number, ofBits_unaryByte, unaryTag_number]
      simp only [opcodeOutcome, htag]

/-- The outcome of an instruction is that of the bytes it begins. -/
theorem kindOf_eq_opcodeOutcome {i : Instr} {b0 b1 : Byte} {tail : List Byte} (h : encode i <+: b0 :: b1 :: tail) :
    kindOf i = opcodeOutcome b0 b1 := by
  cases i with
  | nop | hlt | wfi | ret | rfi | irq | nmi | andsReg | orsReg | xorsReg | andsImm | orsImm | xorsImm | jmp | jmpl | jsr
  | jsrl | jmpa | jmpal | jsra | jsral | bcc | bhc | bfc | btc | bic | bvc | bzc | bsc | bcs | bhs | bfs | bts | bis
  | bvs | bzs | bss | unassigned07 | unassigned0B | unassigned0F =>
    rw [← (List.cons_prefix_cons.mp h).1]
    rfl
  | unassigned18 low | unassigned28 low | unassigned38 low | unassigned44 low | unassigned48 low | unassigned58 low
  | unassignedFC low =>
    rw [← (List.cons_prefix_cons.mp h).1]
    refine (opcodeOutcome_unassigned ?_ b1).symm
    clear h
    revert low
    decide
  | lodDirect t | lodIndexed t | stoDirect t | stoIndexed t | movReg t | movImm t | swp t | psh t | pop t
  | addReg t | addImm t | adcReg t | adcImm t | subReg t | subImm t | sbcReg t | sbcImm t | cmpReg t | cmpImm t
  | andReg t | andImm t | orReg t | orImm t | xorReg t | xorImm t | mulReg t | mulImm t | divReg t | divImm t
  | modReg t | modImm t | powReg t | powImm t | minReg t | minImm t | maxReg t | maxImm t =>
    rw [← (List.cons_prefix_cons.mp h).1]
    cases t <;> rfl
  | inc t d | dec t d | tst t d | com t d | neg t d | abs t d | sxt t d | zxt t d | shl t d | shr t d | rol t d
  | ror t d =>
    obtain ⟨hcode, hrest⟩ := List.cons_prefix_cons.mp h
    rw [← hcode, ← (List.cons_prefix_cons.mp hrest).1]
    exact (opcodeOutcome_unary (by decide) t d).symm

/-- Settles O6: the outcome is that of the cleared bytes, which the instruction encodes to, and no ignored bit changes it. -/
theorem opcodeMapFixesTheOutcome : Obligations.OpcodeMapFixesTheOutcome := by
  intro w
  have hbytes := (decode_readsAs w).bytes
  rw [windowBytes_clearIgnored] at hbytes
  exact (kindOf_eq_opcodeOutcome hbytes).trans (opcodeOutcome_cleared w.b0 w.b1)

end Sys2Proof
end

section
/-! PROOFS. The step runs the instruction at pc (30_encoding.md R91, R92), and words the spec writes out. -/

namespace Sys2Proof

open Machine

/-- Bytes that agree with an encoding over its length begin with it. -/
theorem encode_begins_readBytes {i : Instr} {m : Memory} {a : Word}
    (h : ∀ k, k < i.length → m.byte (a + BitVec.ofNat 32 k) = (encode i).getD k 0) : encode i <+: m.readBytes a 6 := by
  obtain ⟨hlen, -, hmax⟩ := encode_length_bounds i
  have hfit : (encode i).length ≤ (m.readBytes a 6).length := by rwa [Memory.readBytes_length, hlen]
  refine List.prefix_iff_getElem.mpr ⟨hfit, fun k hk => ?_⟩
  have hread := Memory.readBytes_getD m a 6 k (by omega)
  rw [h k (hlen ▸ hk)] at hread
  rwa [List.getD_eq_getElem _ _ hk, List.getD_eq_getElem _ _ (hk.trans_le hfit), eq_comm] at hread

/-- Settles O10: the bytes fetched begin with the instruction's, so they decode to it. -/
theorem stepRunsTheEncodedInstruction : Obligations.StepRunsTheEncodedInstruction := by
  intro s i hwf h
  obtain ⟨rest, hrest⟩ := encode_begins_readBytes h
  rw [step, State.window, ← hrest, decode_encode rest hwf]

/-- Settles O3: the decoder evaluated on each word. -/
theorem specWordsDecode : Obligations.SpecWordsDecode := ⟨rfl, rfl, rfl, rfl, rfl, rfl, rfl, rfl, rfl⟩

end Sys2Proof
end

section
/-! PROOFS. The bytes of the instructions, as numbers (30_encoding.md R92 to R104). -/

namespace Sys2Proof

open Claims

/-! ### Fields as numbers -/

theorem append_eq_ofNat {m n : Nat} (x : BitVec m) (y : BitVec n) :
    x ++ y = BitVec.ofNat (m + n) (2 ^ n * x.toNat + y.toNat) := by
  have htoNat : (x ++ y).toNat = 2 ^ n * x.toNat + y.toNat := by
    rw [BitVec.toNat_append, ← Nat.shiftLeft_add_eq_or_of_lt y.isLt, Nat.shiftLeft_eq, Nat.mul_comm]
  rw [← htoNat, BitVec.ofNat_toNat, BitVec.setWidth_eq]

theorem operandByte_eq (high low : BitVec 4) : operandByte high low = BitVec.ofNat 8 (16 * high.toNat + low.toNat) :=
  append_eq_ofNat high low

theorem operandByte_zero (d : BitVec 4) : operandByte 0 d = BitVec.ofNat 8 d.toNat := by
  simp [operandByte_eq]

theorem taggedOpcode_eq (h : BitVec 6) (t : TypeTag) :
    taggedOpcode h t = BitVec.ofNat 8 (4 * h.toNat + tagNumber t) := by
  have htag : t.bits.toNat = tagNumber t := by cases t <;> rfl
  exact htag ▸ append_eq_ofNat h t.bits

theorem unaryByte_eq (t : TypeTag) (d : ViewIdx) : unaryByte t d = BitVec.ofNat 8 (16 * tagNumber t + d.toNat) := by
  have htag : (0#2 ++ t.bits).toNat = tagNumber t := by cases t <;> rfl
  exact htag ▸ append_eq_ofNat (0#2 ++ t.bits) d

theorem halfBytes_eq (v : Half) : halfBytes v = lowBytes 2 v.toNat := by
  simp [halfBytes, lowBytes, List.range_succ, BitVec.extractLsb', Nat.shiftRight_eq_div_pow]

theorem immBytes_eq (t : TypeTag) (v : Word) : immBytes t v = lowBytes t.bytes v.toNat := by
  cases t <;>
    simp [immBytes, wordBytes, lowBytes, TypeTag.bytes, List.range_succ, BitVec.extractLsb', Nat.shiftRight_eq_div_pow]

theorem wordBytes_eq (v : Word) : wordBytes v = lowBytes 4 v.toNat := immBytes_eq .long v

/-! ### One lemma for each format -/

/-- A binary operation: the two values of bits 7:2 give the register and the immediate form (R102). -/
theorem binaryBytes_of_encode {reg : TypeTag → ViewIdx → ViewIdx → Instr} {imm : TypeTag → ViewIdx → Word → Instr}
    {h h' : BitVec 6} {base : Nat} (hreg : ∀ t d r, encode (reg t d r) = [taggedOpcode h t, operandByte r d])
    (himm : ∀ t d v, encode (imm t d v) = taggedOpcode h' t :: operandByte 0 d :: immBytes t v)
    (hbase : 4 * h.toNat = base) (hnext : 4 * h'.toNat = base + 4) : BinaryBytes base reg imm := by
  constructor
  · intro t d q
    rw [hreg, taggedOpcode_eq, operandByte_eq, hbase]
  · intro t d v
    rw [himm, taggedOpcode_eq, operandByte_zero, immBytes_eq, hnext]

theorem unaryBytes_of_encode {op : TypeTag → ViewIdx → Instr} {n : Nat}
    (henc : ∀ t d, encode (op t d) = [BitVec.ofNat 8 n, unaryByte t d]) : UnaryBytes n op := by
  intro t d
  rw [henc, unaryByte_eq]

theorem shortBytes_of_encode {op : Half → Instr} {n : Nat}
    (henc : ∀ f, encode (op f) = BitVec.ofNat 8 n :: halfBytes f) : ShortBytes n op := by
  intro f
  rw [henc, halfBytes_eq]

theorem longBytes_of_encode {op : Word → Instr} {n : Nat}
    (henc : ∀ f, encode (op f) = BitVec.ofNat 8 n :: wordBytes f) : LongBytes n op := by
  intro f
  rw [henc, wordBytes_eq]

/-! ### The rows -/

/-- Settles O8: each operation by the format of its group. -/
theorem encodedBytesOfArithmetic : Obligations.EncodedBytesOfArithmetic := by
  refine ⟨?_, ?_, ?_, ?_, ?_, ?_, ?_, ?_, ?_, ?_, ?_, ?_, ?_, ?_, ?unary⟩
  case unary =>
    refine ⟨?_, ?_, ?_, ?_, ?_, ?_, ?_, ?_, ?_, ?_, ?_, ?_⟩ <;> exact unaryBytes_of_encode fun _ _ => rfl
  all_goals exact binaryBytes_of_encode (fun _ _ _ => rfl) (fun _ _ _ => rfl) rfl rfl

/-- Settles O9: each instruction by its format. -/
theorem encodedBytesOfControlMoveAndTransfer : Obligations.EncodedBytesOfControlMoveAndTransfer := by
  refine ⟨rfl, rfl, rfl, rfl, rfl, rfl, rfl, fun d => ?_, fun v => ⟨rfl, rfl, rfl⟩, fun t d o f => ?_, fun t d q v => ?_,
    shortBytes_of_encode fun _ => rfl, longBytes_of_encode fun _ => rfl, shortBytes_of_encode fun _ => rfl,
    longBytes_of_encode fun _ => rfl, shortBytes_of_encode fun _ => rfl, longBytes_of_encode fun _ => rfl,
    shortBytes_of_encode fun _ => rfl, longBytes_of_encode fun _ => rfl, ?_⟩
  · simp [encode, operandByte_eq]
  · simp [encode, taggedOpcode_eq, operandByte_eq, halfBytes_eq]
  · simp [encode, taggedOpcode_eq, operandByte_eq, immBytes_eq]
  · simp only [branches, List.forall_mem_cons]
    refine ⟨?_, ?_, ?_, ?_, ?_, ?_, ?_, ?_, ?_, ?_, ?_, ?_, ?_, ?_, ?_, ?_, nofun⟩ <;>
      exact shortBytes_of_encode fun _ => rfl

end Sys2Proof
end

section
/-! PROOFS. The control group (40_control.md R130 to R143): what halts or hangs, what is refused, and what NOP, RET and
status-byte logic leave behind. -/

namespace Sys2Proof.Machine

open Sys2Proof.Claims

/-! ### HALT and STUCK (R131, R132, R143) -/

theorem kindOf_of_isUnassigned {i : Instr} (h : isUnassigned i = true) : kindOf i = .stuck := by
  cases i with
  | unassigned07 | unassigned0B | unassigned0F | unassigned18 | unassigned28 | unassigned38 | unassigned44
  | unassigned48 | unassigned58 | unassignedFC => rfl
  | _ => exact absurd h Bool.false_ne_true

/-- An instruction whose outcome is HALT or STUCK answers the state itself (00_scope.md R11). -/
theorem exec_of_halt_or_stuck {i : Instr} (h : kindOf i = .halt ∨ kindOf i = .stuck) (s : State) :
    exec i s = .next s := by
  have houtcome := exec_hasOutcome i s
  rcases h with h | h <;> rwa [h] at houtcome

/-- A state that the step answers itself is where every run from it stays. -/
theorem run_of_step_eq_self {M : Host.Core} {s : M.State} (h : M.step s = .next s) (n : Nat) :
    M.run n s = .next s := by
  induction n with
  | zero => rfl
  | succ n ih => rw [Host.Core.run, h]; exact ih

/-- Settles O12: the outcome of each is HALT or STUCK, so the step answers the state itself, and so does every run. -/
theorem haltAndStuckKeepTheState : Obligations.HaltAndStuckKeepTheState := by
  refine ⟨fun s => ⟨?_, ?_⟩, fun i s h => ?_, fun n s h => ?_⟩
  · exact exec_of_halt_or_stuck (.inl rfl) s
  · exact exec_of_halt_or_stuck (.inr rfl) s
  · exact exec_of_halt_or_stuck (.inr (kindOf_of_isUnassigned h)) s
  · exact run_of_step_eq_self (M := core) (exec_of_halt_or_stuck h s) n

/-! ### The refused forms (R134 to R136; 30_encoding.md R111) -/

/-- Settles O13: RFI, IRQ and NMI answer nothing else, and each listed form runs at the width of its tag, which Float has
not, so it answers the refusal of its group. -/
theorem refusedForms : Obligations.RefusedForms := by
  refine fun s => ⟨rfl, rfl, rfl, fun d q f v i hi => ?_, fun d q v i hi => ?_, fun d i hi => ?_⟩
  all_goals fin_cases hi <;> rfl

/-! ### Writes of pc, sp and sb -/

theorem Arch.pcAfter_toNat (x : Arch) (n : Nat) : (x.pcAfter n).toNat = (x.pc.toNat + n) % 2 ^ 32 := by
  simp [Arch.pcAfter]

theorem Arch.spAbove_long_toNat (x : Arch) : (x.spAbove .long).toNat = (x.sp.toNat + 4) % 2 ^ 32 :=
  BitVec.toNat_add _ _

theorem regsSame_of_pcSpSb (x : Arch) (pc sp : Word) (sb : Byte) :
    RegsSame x { x with pc := pc, sp := sp, sb := sb } := fun q => by cases q <;> rfl

/-- Where the registers alone are replaced, and of them none but pc, sp and sb, the rest is as `Untouched` says. -/
theorem untouched_of_pcSpSb (s : State) (pc sp : Word) (sb : Byte) :
    Untouched s { s with arch := { s.arch with pc := pc, sp := sp, sb := sb } } :=
  ⟨⟨rfl, rfl, rfl, rfl⟩, rfl, rfl⟩

/-- Settles O29: the next state has pc moved past the one byte, and nothing else of it is written. -/
theorem nopOnlyAdvancesPc : Obligations.NopOnlyAdvancesPc := fun s =>
  ⟨_, rfl, s.arch.pcAfter_toNat 1, rfl, rfl, regsSame_of_pcSpSb _ _ _ _, fun _ => rfl, untouched_of_pcSpSb _ _ _ _⟩

/-! ### Status-byte logic (R137 to R142) -/

/-- Status-byte logic leaves the byte it is given in sb, bit by bit, and moves past its two bytes. -/
theorem statusLogic_statusNext {s : State} {sb : Byte} {bit : Nat → Bool} (h : ∀ k, k < 8 → sb.getLsbD k = bit k) :
    ∃ t, statusLogic s sb = .next t ∧ StatusNext s t bit :=
  ⟨_, statusLogic_eq s sb, h, s.arch.pcAfter_toNat 2, rfl, regsSame_of_pcSpSb _ _ _ _, fun _ => rfl,
    untouched_of_pcSpSb _ _ _ _⟩

theorem Arch.statusOperand_getLsbD (x : Arch) (d : ViewIdx) {k : Nat} (hk : k < 8) :
    (x.statusOperand d).getLsbD k = (x.read .plain .byte d).getLsbD k := by
  simp [Arch.statusOperand, hk]

/-- Both forms of an operation on sb that works bit by bit complete as R137 to R142 say. -/
theorem statusForms_statusNext {s : State} {bit : Bool → Bool → Bool} {op : Byte → Byte → Byte}
    {reg : ViewIdx → Instr} {imm : Byte → Instr}
    (hop : ∀ (x y : Byte) (k : Nat), (op x y).getLsbD k = bit (x.getLsbD k) (y.getLsbD k))
    (hreg : ∀ d, exec (reg d) s = statusLogic s (op s.arch.sb (s.arch.statusOperand d)))
    (himm : ∀ v, exec (imm v) s = statusLogic s (op s.arch.sb v)) :
    (∀ d : ViewIdx, ∃ t, exec (reg d) s = .next t ∧
      StatusNext s t fun k => bit (s.arch.sb.getLsbD k) ((s.arch.read .plain .byte d).getLsbD k)) ∧
    (∀ v : Byte, ∃ t, exec (imm v) s = .next t ∧
      StatusNext s t fun k => bit (s.arch.sb.getLsbD k) (v.getLsbD k)) := by
  constructor
  · intro d
    rw [hreg]
    exact statusLogic_statusNext fun k hk => by rw [hop, Arch.statusOperand_getLsbD _ _ hk]
  · intro v
    rw [himm]
    exact statusLogic_statusNext fun k _ => hop _ _ k

/-- Settles O30: AND, OR and XOR of bytes work bit by bit. -/
theorem statusLogicWritesTheWholeStatus : Obligations.StatusLogicWritesTheWholeStatus := by
  intro s
  simp only [List.forall_mem_cons]
  refine ⟨?_, ?_, ?_, nofun⟩
  · exact statusForms_statusNext (fun _ _ _ => BitVec.getLsbD_and) (fun _ => rfl) (fun _ => rfl)
  · exact statusForms_statusNext (fun _ _ _ => BitVec.getLsbD_or) (fun _ => rfl) (fun _ => rfl)
  · exact statusForms_statusNext (fun _ _ _ => BitVec.getLsbD_xor) (fun _ => rfl) (fun _ => rfl)

end Sys2Proof.Machine
end

section
/-! PROOFS. RET (40_control.md R133), alone and after a call, and what a read of memory is as a number
(20_memory.md R62, R64). -/

namespace Sys2Proof.Machine

open Sys2Proof.Claims

/-! ### A read as a number -/

/-- Bytes put together, the first lowest, are the number with the first at the bottom. -/
theorem toNat_append_byte {n : Nat} (x : BitVec n) (b : Byte) : (x ++ b).toNat = 256 * x.toNat + b.toNat := by
  rw [BitVec.toNat_append, ← Nat.shiftLeft_add_eq_or_of_lt b.isLt, Nat.shiftLeft_eq, Nat.mul_comm]

/-- A read of a width is the number of the bytes at the addresses from `a` on. -/
theorem Memory.read_toNat (m : Memory) (w : Width) (a : Word) : (m.read w a).toNat = bytesNumber m a w.bytes := by
  cases w with
  | byte =>
    rw [Memory.read_byte, BitVec.toNat_setWidth_of_le (by decide)]
    simp [bytesNumber, Width.bytes]
  | word =>
    rw [Memory.read_word_toNat]
    simp only [halfOf, toNat_append_byte, bytesNumber, Width.bytes, BitVec.ofNat_eq_ofNat, BitVec.add_zero]
    omega
  | long =>
    rw [Memory.read_long]
    simp only [wordOf, toNat_append_byte, bytesNumber, Width.bytes, BitVec.ofNat_eq_ofNat, BitVec.add_zero]
    omega

/-! ### RET -/

theorem exec_ret (s : State) :
    exec .ret s = .next { s with
      arch := { s.arch with pc := s.mem.read .long s.arch.sp, sp := s.arch.spAbove .long } } := rfl

/-- Settles O31: the long at sp is the number of the four bytes there. -/
theorem returnPopsPc : Obligations.ReturnPopsPc := fun s =>
  ⟨_, exec_ret s, s.mem.read_toNat .long s.arch.sp, s.arch.spAbove_long_toNat, rfl, regsSame_of_pcSpSb _ _ _ _,
    fun _ => rfl, untouched_of_pcSpSb _ _ _ _⟩

/-! ### RET after a call -/

/-- The four call forms call a target with the return address after their own bytes (42_control_transfer.md R180). -/
theorem exec_call {i : Instr}
    (h : (∃ f : Half, i = .jsr f ∨ i = .jsra f) ∨ (∃ g : Word, i = .jsrl g ∨ i = .jsral g)) (s : State) :
    ∃ target, exec i s = callTo i.length target s := by
  obtain ⟨f, rfl | rfl⟩ | ⟨g, rfl | rfl⟩ := h <;> exact ⟨_, rfl⟩

/-- Settles O42: the call stores the pc after it below sp, and RET reads it back from there. -/
theorem returnUndoesCall : Obligations.ReturnUndoesCall := by
  intro s t i hcall ht hstack
  obtain ⟨target, hexec⟩ := exec_call hcall s
  obtain rfl := Host.Outcome.next.inj ((hexec.trans (callTo_eq _ _ s)).symm.trans ht)
  have hread := (Memory.read_write_long (s.arch.pcAfter i.length) hstack).1
  refine ⟨_, exec_ret _, ?_, ?_, rfl, regsSame_of_pcSpSb _ _ _ _⟩
  · exact (congrArg BitVec.toNat hread).trans (s.arch.pcAfter_toNat i.length)
  · exact BitVec.sub_add_cancel _ _

end Sys2Proof.Machine
end

section
/-! PROOFS. What is read back after a write: of a register view (10_state.md R22 to R24) and of memory (20_memory.md R62). -/

namespace Sys2Proof.Machine

open Sys2Proof.Claims

/-! ### Where views lie -/

theorem spot_within {i : ViewIdx} {w : Width} {r : Reg} {lo : Nat} (h : spot i w = some (r, lo)) :
    lo + w.bits ≤ 32 := by
  have hall : ∀ j : ViewIdx, ∀ p ∈ spot j w, p.2 + w.bits ≤ 32 := by cases w <;> decide
  exact hall i (r, lo) h

/-- Two views of one width share no bit (R22). -/
theorem spot_disjoint {i j : ViewIdx} {w : Width} {r : Reg} {lo lo' : Nat} (hne : i ≠ j)
    (h : spot i w = some (r, lo)) (h' : spot j w = some (r, lo')) : lo + w.bits ≤ lo' ∨ lo' + w.bits ≤ lo := by
  have hall : ∀ i j : ViewIdx, i ≠ j → ∀ p ∈ spot i w, ∀ q ∈ spot j w, p.1 = q.1 →
      p.2 + w.bits ≤ q.2 ∨ q.2 + w.bits ≤ p.2 := by cases w <;> decide
  exact hall i j hne (r, lo) h (r, lo') h' rfl

/-! ### The bits of the registers after a write -/

section

variable {w : Width} {i : ViewIdx} (x : Arch) (c : ViewClass) (v : Word)

theorem Arch.write_getLsbD_inside {r : Reg} {lo k : Nat} (hspot : spot i w = some (r, lo)) (hk : k < w.bits) :
    ((x.write c w i v).reg r).getLsbD (lo + k) = v.getLsbD k := by
  have hfit := spot_within hspot
  rw [x.write_regsWritten c w v i r (lo + k) (by omega), hspot]
  simp [hk]

theorem Arch.write_getLsbD_outside {q : Reg} {k : Nat} (hk : k < 32)
    (hout : ∀ lo, spot i w = some (q, lo) → ¬ (lo ≤ k ∧ k < lo + w.bits)) :
    ((x.write c w i v).reg q).getLsbD k = (x.reg q).getLsbD k := by
  rw [x.write_regsWritten c w v i q k hk]
  cases hspot : spot i w with
  | none => rfl
  | some p =>
    obtain ⟨r, lo⟩ := p
    refine if_neg fun ⟨hr, hin⟩ => hout lo ?_ hin
    rw [hspot, hr]

/-! ### A view read after a write -/

/-- A view of a register reads the low bits of what was written to it. -/
theorem Arch.read_write_same (h : spot i w ≠ none) : (x.write c w i v).read c w i = v &&& w.mask := by
  obtain ⟨⟨r, lo⟩, hspot⟩ := Option.ne_none_iff_exists'.mp h
  apply BitVec.eq_of_getLsbD_eq
  intro k _
  rw [viewsReadTheirBits, Width.getLsbD_and_mask, hspot]
  by_cases hk : k < w.bits
  · simp only [x.write_getLsbD_inside c v hspot hk]
  · simp [hk]

/-- Every other view of the width reads as before. -/
theorem Arch.read_write_of_ne {j : ViewIdx} (h : i ≠ j) :
    (x.write .plain w i v).read .plain w j = x.read .plain w j := by
  apply BitVec.eq_of_getLsbD_eq
  intro k _
  rw [viewsReadTheirBits, viewsReadTheirBits]
  by_cases hk : k < w.bits
  · cases hspot : spot j w with
    | none => simp
    | some p =>
      obtain ⟨r, lo⟩ := p
      have hfit := spot_within hspot
      have hsame := x.write_getLsbD_outside .plain v (q := r) (k := lo + k) (by omega) fun lo' hspot' => by
        have := spot_disjoint h hspot' hspot
        omega
      simp only [hsame]
  · simp [hk]

end

theorem Arch.read_and_mask (x : Arch) (c : ViewClass) (w : Width) (i : ViewIdx) :
    x.read c w i &&& w.mask = x.read c w i := Width.and_mask_of_lt (x.read_lt c w i)

/-! ### Index 8 (41_data_move.md R161) -/

/-- The status byte reads as itself at every width. -/
theorem Arch.read_status (x : Arch) (w : Width) : x.read .sbCapable w 8 = x.sb.setWidth 32 := by
  have hfit : (x.sb.setWidth 32).toNat < 2 ^ w.bits := by
    rw [BitVec.toNat_setWidth_of_le (by decide)]
    exact x.sb.isLt.trans_le (Nat.pow_le_pow_right (by decide) (by cases w <;> decide))
  exact Width.and_mask_of_lt hfit

theorem Arch.read_at_stackWidth (x : Arch) (w : Width) (d : ViewIdx) :
    x.read .sbCapable (stackWidth w d) d = x.read .sbCapable w d := by
  by_cases hd : d = 8
  · rw [hd, Arch.read_status, Arch.read_status]
  · rw [stackWidth, if_neg hd]

theorem Arch.write_at_stackWidth (x : Arch) (w : Width) (d : ViewIdx) (v : Word) :
    x.write .sbCapable (stackWidth w d) d v = x.write .sbCapable w d v := by
  by_cases hd : d = 8
  · subst hd
    rfl
  · rw [stackWidth, if_neg hd]

/-- What is read of a view, or of sb, has no more bits than a stack form moves. -/
theorem Arch.read_and_stackMask (x : Arch) (w : Width) (d : ViewIdx) :
    x.read .sbCapable w d &&& (stackWidth w d).mask = x.read .sbCapable w d := by
  rw [← Arch.read_at_stackWidth, Arch.read_and_mask]

/-- A view that takes the value, or sb, reads the bits of it that a stack form moves. -/
theorem Arch.read_write_sbCapable (x : Arch) {w : Width} {e : ViewIdx} (v : Word) (h : spot e w ≠ none ∨ e = 8) :
    (x.write .sbCapable w e v).read .sbCapable w e = v &&& (stackWidth w e).mask := by
  by_cases he : e = 8
  · subst he
    rw [Arch.read_status, Arch.write_sbCapable_sb, if_pos rfl]
    apply BitVec.eq_of_toNat_eq
    rw [Width.toNat_and_mask, BitVec.toNat_setWidth_of_le (by decide), BitVec.toNat_setWidth]
    rfl
  · rw [stackWidth, if_neg he]
    exact x.read_write_same _ v (h.resolve_right he)

/-! ### Memory -/

/-- Bytes that are those of a number make up its remainder. -/
theorem bytesNumber_eq_mod {m : Memory} {a v : Word} {n : Nat}
    (h : ∀ k, k < n → m.byte (a + BitVec.ofNat 32 k) = BitVec.ofNat 8 (v.toNat / 256 ^ k)) :
    bytesNumber m a n = v.toNat % 256 ^ n := by
  induction n with
  | zero => simp [bytesNumber, Nat.mod_one]
  | succ n ih =>
    rw [bytesNumber, ih fun k hk => h k (by omega), h n (by omega), BitVec.toNat_ofNat,
      Nat.mod_pow_succ (b := 256), Nat.mul_comm]

/-- A value stored inside Memory is read back at its width (R62, R63). -/
theorem Memory.read_write (m : Memory) {w : Width} {a : Word} (v : Word)
    (h : ∀ k, k < w.bytes → (a + BitVec.ofNat 32 k).toNat < m.size) : (m.write w a v).read w a = v &&& w.mask := by
  have hbyte : ∀ k, k < w.bytes → (m.write w a v).byte (a + BitVec.ofNat 32 k) = BitVec.ofNat 8 (v.toNat / 256 ^ k) := by
    intro k hk
    have hoff : (a + BitVec.ofNat 32 k - a).toNat = k := by
      have hmax : w.bytes ≤ 4 := by cases w <;> decide
      rw [BitVec.add_comm, BitVec.add_sub_cancel, BitVec.toNat_ofNat]
      omega
    rw [Memory.byte_write, hoff, if_pos ⟨hk, h k hk⟩, extractLsb'_byte]
  apply BitVec.eq_of_toNat_eq
  rw [Memory.read_toNat, bytesNumber_eq_mod hbyte, Width.toNat_and_mask, Width.bits_eq, Nat.pow_mul]

end Sys2Proof.Machine
end

section
/-! PROOFS. Data moves that leave sp alone: LOD, STO, MOV and SWP (41_data_move.md R151 to R158). -/

namespace Sys2Proof.Machine

open Sys2Proof.Claims

/-! ### Effective addresses (R151) -/

/-- A sum modulo 2^32 whose second term is read as two's complement. -/
theorem toNat_add_eq_emod (a b : Word) : ((a + b).toNat : Int) = (a.toNat + b.toInt) % 2 ^ 32 := by
  rw [BitVec.toInt_eq_toNat_cond, BitVec.toNat_add]
  split <;> omega

theorem sext16_toInt (v : Half) : (sext16 v).toInt = v.toInt := BitVec.toInt_signExtend_of_le (by decide)

/-- Settles O32: sign extension keeps the signed displacement, and each sum is modulo 2^32. -/
theorem effectiveAddresses : Obligations.EffectiveAddresses := by
  intro x disp o
  constructor
  · rw [Arch.directAddr, toNat_add_eq_emod, sext16_toInt, Arch.pcAfter_toNat]
    omega
  · exact BitVec.toNat_add _ _

/-! ### What the answers leave untouched -/

theorem untouched_of_arch {s : State} {x : Arch} (h : FloatsSame s.arch x) : Untouched s { s with arch := x } :=
  ⟨h, rfl, rfl⟩

theorem untouched_of_write {s : State} {x : Arch} (h : FloatsSame s.arch x) (w : Width) (a v : Word) :
    Untouched s { s with arch := x, mem := s.mem.write w a v } :=
  ⟨h, Memory.write_size _ _ _ _, rfl⟩

theorem Arch.write_floatsSame (x : Arch) (c : ViewClass) (w : Width) (i : ViewIdx) (v : Word) :
    FloatsSame x (x.write c w i v) := by simp [FloatsSame]

theorem Arch.write_pcAfter_toNat (x : Arch) (c : ViewClass) (w : Width) (i : ViewIdx) (v : Word) (n : Nat) :
    ((x.write c w i v).pcAfter n).toNat = (x.pc.toNat + n) % 2 ^ 32 := by
  rw [Arch.pcAfter_toNat, Arch.write_pc]

/-! ### LOD and STO (R152 to R155) -/

theorem loadFrom_completes (s : State) (w : Width) (d : ViewIdx) (a : Word) :
    ∃ t v, loadFrom w.tag d a s = .next t ∧ v.toNat = bytesNumber s.mem a w.bytes ∧ RegsWritten s.arch t.arch w d v ∧
      t.arch.pc.toNat = (s.arch.pc.toNat + 4) % 2 ^ 32 ∧ t.arch.sp = s.arch.sp ∧ t.arch.sb = s.arch.sb ∧
      MemSame s t ∧ Untouched s t :=
  ⟨_, _, loadFrom_tag w d a s, s.mem.read_toNat w a, s.arch.write_regsWritten .plain w _ d,
    s.arch.write_pcAfter_toNat .plain w d _ 4, by simp, by simp, fun _ => rfl,
    untouched_of_arch (s.arch.write_floatsSame .plain w d _)⟩

/-- Settles O33: both forms load from their address. -/
theorem loadsWriteTheView : Obligations.LoadsWriteTheView := by
  intro s w d o disp
  simp only [List.forall_mem_cons]
  exact ⟨loadFrom_completes s w d _, loadFrom_completes s w d _, nofun⟩

theorem storeTo_completes (s : State) (w : Width) (d : ViewIdx) (a : Word) :
    ∃ t, storeTo w.tag d a s = .next t ∧ MemStored s t a w.bytes (s.arch.read .plain w d) ∧
      t.arch.pc.toNat = (s.arch.pc.toNat + 4) % 2 ^ 32 ∧ t.arch.sp = s.arch.sp ∧ t.arch.sb = s.arch.sb ∧
      RegsSame s.arch t.arch ∧ Untouched s t :=
  ⟨_, storeTo_tag w d a s, memStored_of_write rfl, s.arch.pcAfter_toNat 4, rfl, rfl, regsSame_of_pcSpSb _ _ _ _,
    untouched_of_write ⟨rfl, rfl, rfl, rfl⟩ w a _⟩

/-- Settles O34: both forms store to their address. -/
theorem storesWriteTheBytes : Obligations.StoresWriteTheBytes := by
  intro s w d o disp
  simp only [List.forall_mem_cons]
  exact ⟨storeTo_completes s w d _, storeTo_completes s w d _, nofun⟩

/-! ### MOV (R156, R157) -/

theorem exec_movReg (w : Width) (d q : ViewIdx) (s : State) :
    exec (.movReg w.tag d q) s
      = .next { s with arch := (s.arch.write .sbCapable w d (s.arch.read .sbCapable w q)).advance 2 } :=
  atWidth_tag w _ _

theorem exec_movImm (w : Width) (d : ViewIdx) (v : Word) (s : State) :
    exec (.movImm w.tag d v) s
      = .next { s with arch := (s.arch.write .sbCapable w d (immAt w v)).advance (2 + w.bytes) } :=
  atWidth_tag w _ _

theorem Arch.write_sbCapable_sb_ofNat (x : Arch) (w : Width) (d : ViewIdx) (v : Word) :
    (x.write .sbCapable w d v).sb = if d = 8 then BitVec.ofNat 8 v.toNat else x.sb := by
  simpa using x.write_sb .sbCapable w v d

/-- A value written to a view, or to sb, then past the instruction. -/
theorem moveNext_write (s : State) (w : Width) (d : ViewIdx) (v : Word) (n : Nat) :
    MoveNext s { s with arch := (s.arch.write .sbCapable w d v).advance n } w d v n :=
  ⟨s.arch.write_regsWritten .sbCapable w v d, s.arch.write_sbCapable_sb_ofNat w d v,
    s.arch.write_pcAfter_toNat .sbCapable w d v n, by simp, fun _ => rfl,
    untouched_of_arch (s.arch.write_floatsSame .sbCapable w d v)⟩

/-- Settles O35: both forms write their source; an immediate of the width is its own mask. -/
theorem movesCopyTheSource : Obligations.MovesCopyTheSource := by
  intro s w d
  refine ⟨fun q => ⟨_, exec_movReg w d q s, moveNext_write s w d _ 2⟩, fun v hv => ⟨_, exec_movImm w d v s, ?_⟩⟩
  rw [immAt, Width.and_mask_of_lt hv]
  exact moveNext_write s w d v _

/-! ### SWP (R158) -/

theorem exec_swp (w : Width) (a b : ViewIdx) (s : State) :
    exec (.swp w.tag a b) s
      = .next { s with arch := ((s.arch.write .plain w a (s.arch.read .plain w b)).write .plain w b
          (s.arch.read .plain w a)).advance 2 } :=
  atWidth_tag w _ _

/-- Settles O36: both values are read first, and the second write touches the first view only where they are one. -/
theorem swapExchangesTwoViews : Obligations.SwapExchangesTwoViews := by
  intro s w a b
  refine ⟨_, exec_swp w a b s, fun ha => ?_, fun hb => ?_, fun c hca hcb => ?_, fun q k hk hout => ?_, ?_, by simp, by simp,
    fun _ => rfl, untouched_of_arch (by simp [FloatsSame])⟩
  · by_cases hba : b = a
    · subst hba
      rw [Arch.read_advance, Arch.read_write_same _ _ _ ha, Arch.read_and_mask]
    · rw [Arch.read_advance, Arch.read_write_of_ne _ _ hba, Arch.read_write_same _ _ _ ha, Arch.read_and_mask]
  · rw [Arch.read_advance, Arch.read_write_same _ _ _ hb, Arch.read_and_mask]
  · rw [Arch.read_advance, Arch.read_write_of_ne _ _ hcb.symm, Arch.read_write_of_ne _ _ hca.symm]
  · rw [Arch.advance_reg, Arch.write_getLsbD_outside _ _ _ hk (hout b (by simp)),
      Arch.write_getLsbD_outside _ _ _ hk (hout a (by simp))]
  · rw [Arch.advance_pc, Arch.write_pcAfter_toNat, Arch.write_pc]

end Sys2Proof.Machine
end

section
/-! PROOFS. The stack: PSH, POP, and the one after the other (41_data_move.md R159 to R161). -/

namespace Sys2Proof.Machine

open Sys2Proof.Claims

/-! ### Where sp goes (10_state.md R26) -/

theorem Arch.spBelow_toNat (x : Arch) (w : Width) :
    ((x.spBelow w).toNat : Int) = (x.sp.toNat - w.bytes) % 2 ^ 32 := by
  rw [Arch.spBelow, BitVec.toNat_sub]
  cases w <;> simp only [Width.bytes, BitVec.toNat_ofNat] <;> omega

theorem Arch.spAbove_toNat (x : Arch) (w : Width) : (x.spAbove w).toNat = (x.sp.toNat + w.bytes) % 2 ^ 32 := by
  simp [Arch.spAbove]

theorem Arch.read_withSp (x : Arch) (sp : Word) (c : ViewClass) (w : Width) (i : ViewIdx) :
    ({ x with sp := sp } : Arch).read c w i = x.read c w i :=
  Arch.read_congr (regsSame_of_pcSpSb x x.pc sp x.sb) rfl c w i

/-! ### PSH and POP -/

/-- Settles O37: PSH answers one write of the stack width at the new sp. -/
theorem pushStoresBelowSp : Obligations.PushStoresBelowSp := by
  intro s w d
  rw [stackBytes_tag, ← Arch.read_stackWidth]
  exact ⟨_, exec_psh w d s, rfl, s.arch.spBelow_toNat _, memStored_of_write rfl, s.arch.pcAfter_toNat 2, rfl,
    regsSame_of_pcSpSb _ _ _ _, untouched_of_write ⟨rfl, rfl, rfl, rfl⟩ _ _ _⟩

theorem exec_pop (w : Width) (d : ViewIdx) (s : State) :
    exec (.pop w.tag d) s
      = .next { s with
          arch := { (s.arch.write .sbCapable w d (s.mem.read (stackWidth w d) s.arch.sp)).advance 2 with
            sp := s.arch.spAbove (stackWidth w d) } } := by
  rw [← Arch.write_at_stackWidth]
  exact atWidth_tag w _ _

/-- Settles O38: POP writes the read at sp as MOV writes its source, and sp besides. -/
theorem popReadsAtSp : Obligations.PopReadsAtSp := by
  intro s w d
  rw [stackBytes_tag]
  exact ⟨_, _, exec_pop w d s, s.mem.read_toNat _ _, s.arch.write_regsWritten .sbCapable w _ d,
    s.arch.write_sbCapable_sb_ofNat w d _, s.arch.spAbove_toNat _, s.arch.write_pcAfter_toNat .sbCapable w d _ 2,
    fun _ => rfl, untouched_of_arch (s.arch.write_floatsSame .sbCapable w d _)⟩

/-! ### POP after PSH -/

theorem stackWidth_congr (w : Width) {d e : ViewIdx} (h : d = 8 ↔ e = 8) : stackWidth w d = stackWidth w e := by
  simp only [stackWidth, h]

/-- Settles O39: both forms move the same bytes, memory gives back those stored, and the view takes them. -/
theorem popUndoesPush : Obligations.PopUndoesPush := by
  intro s t w d e ht hde htakes hstack
  have hwidth := stackWidth_congr w hde
  obtain rfl := Host.Outcome.next.inj ((exec_psh w d s).symm.trans ht)
  rw [stackBytes_tag] at hstack
  have hread := s.mem.read_write (s.arch.read .sbCapable (stackWidth w d) d) hstack
  rw [Arch.read_at_stackWidth, Arch.read_and_stackMask] at hread
  refine ⟨_, exec_pop w e _, ?_, ?_⟩
  · rw [← hwidth]
    exact BitVec.sub_add_cancel _ _
  · rw [Arch.read_withSp, Arch.read_advance, Arch.read_write_sbCapable _ _ htakes, ← hwidth, Arch.read_at_stackWidth, hread,
      Arch.read_and_stackMask]

end Sys2Proof.Machine
end

section
/-! PROOFS. Control transfer: jumps, calls and branches (42_control_transfer.md R180 to R206). -/

namespace Sys2Proof.Machine

open Sys2Proof.Claims

/-! ### Targets (R180, R190) -/

/-- A short target is relative to the end of three bytes, the field signed. -/
theorem Arch.shortTarget_toNat (x : Arch) (f : Half) :
    ((x.shortTarget f).toNat : Int) = (x.pc.toNat + 3 + f.toInt) % 2 ^ 32 := by
  rw [Arch.shortTarget, toNat_add_eq_emod, sext16_toInt, Arch.pcAfter_toNat]
  omega

/-- A long target is relative to the end of five bytes, the field signed. -/
theorem Arch.longTarget_toNat (x : Arch) (g : Word) :
    ((x.longTarget g).toNat : Int) = (x.pc.toNat + 5 + g.toInt) % 2 ^ 32 := by
  rw [Arch.longTarget, toNat_add_eq_emod, Arch.pcAfter_toNat]
  omega

/-- A long absolute target is the field itself. -/
theorem toNat_eq_emod (a : Word) : (a.toNat : Int) = a.toNat % 2 ^ 32 :=
  congrArg Nat.cast (Nat.mod_eq_of_lt a.isLt).symm

/-- A short absolute target is the field itself, not sign-extended. -/
theorem zext16_toNat (f : Half) : ((zext16 f).toNat : Int) = f.toNat % 2 ^ 32 :=
  congrArg Nat.cast (BitVec.toNat_setWidth 32 f)

/-! ### The shared operations -/

theorem jumpTo_completes (s : State) {a : Word} {n : Int} (ha : (a.toNat : Int) = n % 2 ^ 32) :
    ∃ t, jumpTo a s = .next t ∧ (t.arch.pc.toNat : Int) = n % 2 ^ 32 ∧ t.arch.sp = s.arch.sp ∧
      t.arch.sb = s.arch.sb ∧ RegsSame s.arch t.arch ∧ MemSame s t ∧ Untouched s t :=
  ⟨_, jumpTo_eq a s, ha, rfl, rfl, regsSame_of_pcSpSb _ _ _ _, fun _ => rfl, untouched_of_pcSpSb _ _ _ _⟩

theorem callTo_completes (s : State) (length : Nat) {a : Word} {n : Int} (ha : (a.toNat : Int) = n % 2 ^ 32) :
    ∃ t, callTo length a s = .next t ∧ (t.arch.pc.toNat : Int) = n % 2 ^ 32 ∧
      t.arch.sp = s.arch.spBelow .long ∧ t.arch.sp = s.arch.sp - 4 ∧
      MemStored s t (s.arch.spBelow .long) 4 (s.arch.pc + BitVec.ofNat 32 length) ∧
      t.arch.sb = s.arch.sb ∧ RegsSame s.arch t.arch ∧ Untouched s t :=
  ⟨_, callTo_eq length a s, ha, rfl, rfl, memStored_of_write (w := .long) rfl, rfl, regsSame_of_pcSpSb _ _ _ _,
    untouched_of_write ⟨rfl, rfl, rfl, rfl⟩ _ _ _⟩

/-- A branch is a jump to its target where the flag has the wanted value, and else to the end of its three bytes. -/
theorem branchIf_eq_jumpTo (g : Flag) (want : Bool) (off : Half) (s : State) :
    branchIf g want off s =
      jumpTo (if readFlag s.arch.sb g = want then s.arch.shortTarget off else s.arch.pcAfter 3) s :=
  branchIf_eq g want off s

theorem branchIf_completes (s : State) (g : Flag) (want : Bool) (off : Half) :
    ∃ t, branchIf g want off s = .next t ∧
      (t.arch.pc.toNat : Int) =
        (s.arch.pc.toNat + 3 + if s.arch.sb.getLsbD g.bit = want then off.toInt else 0) % 2 ^ 32 ∧
      t.arch.sp = s.arch.sp ∧ t.arch.sb = s.arch.sb ∧ RegsSame s.arch t.arch ∧ MemSame s t ∧ Untouched s t := by
  rw [branchIf_eq_jumpTo]
  apply jumpTo_completes
  by_cases h : s.arch.sb.getLsbD g.bit = want
  · rw [if_pos h, readFlag, if_pos h]
    exact s.arch.shortTarget_toNat off
  · rw [if_neg h, readFlag, if_neg h, Int.add_zero]
    exact congrArg Nat.cast (s.arch.pcAfter_toNat 3)

/-! ### The instructions -/

/-- Settles O40: each jump replaces pc by its target. -/
theorem jumpsReplacePc : Obligations.JumpsReplacePc := by
  intro s f g
  simp only [List.forall_mem_cons]
  exact ⟨jumpTo_completes s (s.arch.shortTarget_toNat f), jumpTo_completes s (s.arch.longTarget_toNat g),
    jumpTo_completes s (zext16_toNat f), jumpTo_completes s (toNat_eq_emod g), nofun⟩

/-- Settles O41: each call stores the pc after its own bytes in one write at the new sp, and jumps to its target. -/
theorem callsPushTheReturnAddress : Obligations.CallsPushTheReturnAddress := by
  intro s f g
  simp only [List.forall_mem_cons]
  exact ⟨callTo_completes s 3 (s.arch.shortTarget_toNat f), callTo_completes s 5 (s.arch.longTarget_toNat g),
    callTo_completes s 3 (zext16_toNat f), callTo_completes s 5 (toNat_eq_emod g), nofun⟩

/-- Each branch of the table tests the flag that has the bit's number, for the value beside it (R191 to R206). -/
theorem exec_branch : ∀ p ∈ branches,
    ∃ g : Flag, g.bit = p.2.1 ∧ ∀ (off : Half) (s : State), exec (p.1 off) s = branchIf g p.2.2 off s := by
  simp only [branches, List.forall_mem_cons]
  exact ⟨⟨.c, rfl, fun _ _ => rfl⟩, ⟨.h, rfl, fun _ _ => rfl⟩, ⟨.f, rfl, fun _ _ => rfl⟩, ⟨.t, rfl, fun _ _ => rfl⟩,
    ⟨.i, rfl, fun _ _ => rfl⟩, ⟨.v, rfl, fun _ _ => rfl⟩, ⟨.z, rfl, fun _ _ => rfl⟩, ⟨.s, rfl, fun _ _ => rfl⟩,
    ⟨.c, rfl, fun _ _ => rfl⟩, ⟨.h, rfl, fun _ _ => rfl⟩, ⟨.f, rfl, fun _ _ => rfl⟩, ⟨.t, rfl, fun _ _ => rfl⟩,
    ⟨.i, rfl, fun _ _ => rfl⟩, ⟨.v, rfl, fun _ _ => rfl⟩, ⟨.z, rfl, fun _ _ => rfl⟩, ⟨.s, rfl, fun _ _ => rfl⟩, nofun⟩

/-- Settles O43: every branch of the table tests its flag's bit, and completes as every branch does. -/
theorem branchesTestOneFlag : Obligations.BranchesTestOneFlag := by
  intro s off p hp
  obtain ⟨g, hbit, hexec⟩ := exec_branch p hp
  rw [hexec, ← hbit]
  exact branchIf_completes s g p.2.2 off

end Sys2Proof.Machine
end

section
/-! PROOFS. What a binary arithmetic instruction leaves behind, whatever its operation (43_alu_binary.md R220, R222). -/

namespace Sys2Proof.Machine

open Sys2Proof.Claims

/-! ### Retiring a result -/

/-- The sign of a value of the width is the claims' top bit. -/
theorem sign_eq_topBit {w : Width} {v : Word} (h : v.toNat < 2 ^ w.bits) : w.sign v = topBit w v :=
  Width.sign_eq_decide h

/-- Whether an operation writes its result to its first operand, as the claims say it (R230). -/
def WriteBack.stores : WriteBack → Bool
  | .writes => true
  | .suppressed => false

/-- What an operation gives names no flag besides S, Z and those listed. -/
def AluOut.NamesOnly (o : AluOut) (named : List Flag) : Prop :=
  (.c ∉ named → o.carry = none) ∧ (.v ∉ named → o.overflow = none) ∧ (.t ∉ named → o.trap = false)

/-- A flag an operation does not name is as before (R220). -/
theorem readFlag_aluStatus_kept {w : Width} {o : AluOut} {named : List Flag} (h : o.NamesOnly named) (sb : Byte)
    {g : Flag} (hs : g ≠ .s) (hz : g ≠ .z) (hg : g ∉ named) : readFlag (aluStatus w o sb) g = readFlag sb g := by
  obtain ⟨hc, hv, ht⟩ := h
  rw [readFlag_aluStatus]
  cases g with
  | s => exact absurd rfl hs
  | z => exact absurd rfl hz
  | c => simp [hc hg]
  | v => simp [hv hg]
  | t => simp [ht hg]
  | h | f | i => rfl

/-- A result retired at a width leaves behind what every arithmetic instruction does (R220, R222). -/
theorem aluNext_retireAlu (s : State) {w : Width} (d : ViewIdx) (wb : WriteBack) {o : AluOut} (len : Nat)
    {named : List Flag} (hlt : o.result.toNat < 2 ^ w.bits) (hnamed : o.NamesOnly named) :
    AluNext s { s with arch := s.arch.retireAlu wb w d o len } w d wb.stores o.result len named := by
  have hregs : if wb.stores = true then RegsWritten s.arch (s.arch.retireAlu wb w d o len) w d o.result
      else RegsSame s.arch (s.arch.retireAlu wb w d o len) := by
    cases wb with
    | writes =>
      intro q k hk
      rw [Arch.retireAlu_writes_reg]
      exact s.arch.write_regsWritten .plain w o.result d q k hk
    | suppressed => exact s.arch.retireAlu_suppressed_reg w d o len
  have hzero : o.result &&& w.mask = 0 ↔ o.result.toNat = 0 := by
    rw [Width.and_mask_of_lt hlt, ← BitVec.toNat_inj]
    rfl
  refine ⟨hlt, hregs, ?_, ?_, ?_, s.arch.retireAlu_pc wb w d o len, s.arch.retireAlu_sp wb w d o len, fun _ => rfl,
    untouched_of_arch (by simp [FloatsSame])⟩
  · exact (readFlag_aluStatus w o s.arch.sb .s).trans (sign_eq_topBit hlt)
  · exact (readFlag_aluStatus w o s.arch.sb .z).trans (decide_eq_decide.mpr hzero)
  · exact fun g hs hz hg => readFlag_aluStatus_kept hnamed s.arch.sb hs hz hg

/-! ### From values to instructions -/

/-- What an operation gives of two values in `s` is a result of the width, names only the flags listed, and is with the
flags it leaves as `rule` says. -/
def AnswersRule (s : State) (w : Width) (v1 v2 : Word) (o : AluOut) (named : List Flag) (rule : ValueRule) : Prop :=
  o.result.toNat < 2 ^ w.bits ∧ o.NamesOnly named ∧ rule s w v1 v2 o.result (readFlag (aluStatus w o s.arch.sb))

/-- An operation that answers a rule on all values of a width gives it to both its forms. -/
theorem binaryRule_of_op {reg : TypeTag → ViewIdx → ViewIdx → Instr} {imm : TypeTag → ViewIdx → Word → Instr}
    {wb : WriteBack} {op : BinaryOp} {named : List Flag} {rule : ValueRule}
    (hreg : ∀ t d q s, exec (reg t d q) s = binaryReg wb op t d q s)
    (himm : ∀ t d v s, exec (imm t d v) s = binaryImm wb op t d v s)
    (hop : ∀ s w v1 v2, v1.toNat < 2 ^ w.bits → v2.toNat < 2 ^ w.bits →
      AnswersRule s w v1 v2 (op s w v1 v2) named rule) :
    BinaryRule reg imm wb.stores named rule := by
  intro s w d
  constructor
  · intro q
    obtain ⟨hlt, hnamed, hrule⟩ := hop s w _ _ (s.arch.read_lt .plain w d) (s.arch.read_lt .plain w q)
    exact ⟨_, _, (hreg _ _ _ _).trans (binaryReg_tag wb op w d q s), aluNext_retireAlu s d wb 2 hlt hnamed, hrule⟩
  · intro v hv
    obtain ⟨hlt, hnamed, hrule⟩ := hop s w _ v (s.arch.read_lt .plain w d) hv
    have hexec := (himm _ _ _ _).trans (binaryImm_tag wb op w d v s)
    rw [show immAt w v = v from Width.and_mask_of_lt hv] at hexec
    exact ⟨_, _, hexec, aluNext_retireAlu s d wb (2 + w.bytes) hlt hnamed, hrule⟩

section

variable {s : State} {w : Width} {v1 v2 r : Word} {named : List Flag} {rule : ValueRule}

/-- An operation that writes S and Z only. -/
theorem answersRule_plainOut (hlt : r.toNat < 2 ^ w.bits) (hrule : ∀ flag, rule s w v1 v2 r flag) :
    AnswersRule s w v1 v2 (plainOut r) [] rule :=
  ⟨hlt, ⟨fun _ => rfl, fun _ => rfl, fun _ => rfl⟩, hrule _⟩

/-- An operation that writes C and V besides: T is kept. -/
theorem answersRule_carryOut {c v : Bool} (hlt : r.toNat < 2 ^ w.bits)
    (hrule : ∀ flag, flag .c = c → flag .v = v → flag .t = readFlag s.arch.sb .t → rule s w v1 v2 r flag)
    (hc : .c ∈ named := by simp) (hv : .v ∈ named := by simp) :
    AnswersRule s w v1 v2 (carryOut r c v) named rule :=
  ⟨hlt, ⟨fun h => absurd hc h, fun h => absurd hv h, fun _ => rfl⟩,
    hrule _ (readFlag_aluStatus _ _ _ .c) (readFlag_aluStatus _ _ _ .v) (readFlag_aluStatus _ _ _ .t)⟩

/-- A zero divisor: all ones, with C, V and T set (R301). -/
theorem answersRule_zeroDivisorOut
    (hrule : ∀ flag, flag .c = true → flag .v = true → flag .t = true → rule s w v1 v2 w.mask flag)
    (hc : .c ∈ named := by simp) (hv : .v ∈ named := by simp) (ht : .t ∈ named := by simp) :
    AnswersRule s w v1 v2 (zeroDivisorOut w) named rule := by
  have hlt : w.mask.toNat < 2 ^ w.bits := by
    rw [Width.mask_toNat]
    exact Nat.sub_lt (Nat.two_pow_pos _) Nat.one_pos
  exact ⟨hlt, ⟨fun h => absurd hc h, fun h => absurd hv h, fun h => absurd ht h⟩,
    hrule _ (readFlag_aluStatus _ _ _ .c) (readFlag_aluStatus _ _ _ .v) (readFlag_aluStatus _ _ _ .t)⟩

end

end Sys2Proof.Machine
end

section
/-! PROOFS. Binary operations that need no magnitude: sums and differences (43_alu_binary.md R226 to R230), bitwise logic
(R231 to R233), and the lesser and the greater (R238, R239). -/

namespace Sys2Proof.Machine

open Sys2Proof.Claims

section

variable {s : State} {w : Width} {v1 v2 r : Word} {c : Bool} {rule : ValueRule}

/-! ### Sums (R223) -/

theorem maskedSum_toNat (w : Width) (c : Bool) (v1 v2 : Word) :
    ((v1 + v2 + flagWord c) &&& w.mask).toNat = (v1.toNat + v2.toNat + c.toNat) % 2 ^ w.bits := by
  rw [Width.toNat_and_mask, BitVec.toNat_add, BitVec.toNat_add]
  cases w <;> cases c <;> simp [flagWord, Width.bits]

/-- The carry identity of R223 is the carry out of the width. -/
theorem carryAdd_eq_decide (h1 : v1.toNat < 2 ^ w.bits) (h2 : v2.toNat < 2 ^ w.bits)
    (hr : r.toNat = (v1.toNat + v2.toNat + c.toNat) % 2 ^ w.bits) :
    carryAdd (topBit w v1) (topBit w v2) (topBit w r) = decide (2 ^ w.bits ≤ v1.toNat + v2.toNat + c.toNat) := by
  have hc := c.toNat_le
  rw [Bool.eq_iff_iff, decide_eq_true_iff]
  simp only [carryAdd, topBit, Bool.or_eq_true, Bool.and_eq_true, Bool.not_eq_true', decide_eq_true_iff,
    decide_eq_false_iff_not]
  cases w <;> simp only [Width.bits] at * <;> omega

/-- The overflow identity of R223 is two's-complement overflow. -/
theorem overflowAdd_eq_decide (h1 : v1.toNat < 2 ^ w.bits) (h2 : v2.toNat < 2 ^ w.bits)
    (hr : r.toNat = (v1.toNat + v2.toNat + c.toNat) % 2 ^ w.bits) :
    overflowAdd (topBit w v1) (topBit w v2) (topBit w r)
      = decide (signedOf w r ≠ signedOf w v1 + signedOf w v2 + c.toNat) := by
  have hc := c.toNat_le
  rw [Bool.eq_iff_iff, decide_eq_true_iff]
  simp only [overflowAdd, topBit, signedOf, Bool.or_eq_true, Bool.and_eq_true, Bool.not_eq_true', decide_eq_true_iff,
    decide_eq_false_iff_not]
  cases w <;> simp only [Width.bits] at * <;> omega

/-- A sum answers a rule that its number and its two identities give. -/
theorem answersRule_addOut (h1 : v1.toNat < 2 ^ w.bits) (h2 : v2.toNat < 2 ^ w.bits)
    (hrule : ∀ r flag, r.toNat = (v1.toNat + v2.toNat + c.toNat) % 2 ^ w.bits →
      flag .c = carryAdd (topBit w v1) (topBit w v2) (topBit w r) →
      flag .v = overflowAdd (topBit w v1) (topBit w v2) (topBit w r) → rule s w v1 v2 r flag) :
    AnswersRule s w v1 v2 (addOut w c v1 v2) [.c, .v] rule := by
  have hlt : ((v1 + v2 + flagWord c) &&& w.mask).toNat < 2 ^ w.bits := immAt_lt w _
  refine answersRule_carryOut hlt fun flag hc hv _ => ?_
  simp only [sign_eq_topBit h1, sign_eq_topBit h2, sign_eq_topBit hlt] at hc hv
  exact hrule _ flag (maskedSum_toNat w c v1 v2) hc hv

/-! ### Differences (R224) -/

theorem maskedDifference_toNat (w : Width) (c : Bool) (v1 v2 : Word) :
    (((v1 - v2 - flagWord c) &&& w.mask).toNat : Int) = ((v1.toNat : Int) - v2.toNat - c.toNat) % 2 ^ w.bits := by
  rw [Width.toNat_and_mask, BitVec.toNat_sub, BitVec.toNat_sub]
  cases w <;> cases c <;> simp [flagWord, Width.bits] <;> omega

/-- The overflow identity of R224 is two's-complement overflow (D21). -/
theorem overflowSub_eq_decide (h1 : v1.toNat < 2 ^ w.bits) (h2 : v2.toNat < 2 ^ w.bits)
    (hr : (r.toNat : Int) = ((v1.toNat : Int) - v2.toNat - c.toNat) % 2 ^ w.bits) :
    overflowSub (topBit w v1) (topBit w v2) (topBit w r)
      = decide (signedOf w r ≠ signedOf w v1 - signedOf w v2 - c.toNat) := by
  have hc := c.toNat_le
  rw [Bool.eq_iff_iff, decide_eq_true_iff]
  simp only [overflowSub, topBit, signedOf, Bool.or_eq_true, Bool.and_eq_true, Bool.not_eq_true', decide_eq_true_iff,
    decide_eq_false_iff_not]
  cases w <;> simp only [Width.bits] at * <;> omega

/-- A difference answers a rule that its number, the source's Carry(sub) and two's-complement overflow give. -/
theorem answersRule_subOut (h1 : v1.toNat < 2 ^ w.bits) (h2 : v2.toNat < 2 ^ w.bits)
    (hrule : ∀ r flag, (r.toNat : Int) = ((v1.toNat : Int) - v2.toNat - c.toNat) % 2 ^ w.bits →
      flag .c = carrySub (topBit w v1) (topBit w v2) (topBit w r) →
      flag .v = decide (signedOf w r ≠ signedOf w v1 - signedOf w v2 - c.toNat) → rule s w v1 v2 r flag) :
    AnswersRule s w v1 v2 (subOut w c v1 v2) [.c, .v] rule := by
  have hlt : ((v1 - v2 - flagWord c) &&& w.mask).toNat < 2 ^ w.bits := immAt_lt w _
  have hr := maskedDifference_toNat w c v1 v2
  refine answersRule_carryOut hlt fun flag hc hv _ => ?_
  simp only [sign_eq_topBit h1, sign_eq_topBit h2, sign_eq_topBit hlt] at hc hv
  exact hrule _ flag hr hc (hv.trans (overflowSub_eq_decide h1 h2 hr))

end

/-! ### The instructions -/

/-- Settles O44: the bytes are those of the encoding's row, and the identities of R223 are carry and overflow. -/
theorem addGivesTheSum : Obligations.AddGivesTheSum := by
  obtain ⟨⟨hreg, himm⟩, -⟩ := encodedBytesOfArithmetic
  refine ⟨fun w d q v => ⟨by rw [hreg]; rfl, by rw [himm]; rfl⟩, ?_⟩
  refine binaryRule_of_op (wb := .writes) (op := addOp) (fun _ _ _ _ => rfl) (fun _ _ _ _ => rfl)
    fun s w v1 v2 h1 h2 => ?_
  refine answersRule_addOut h1 h2 fun r flag hr hc hv => ⟨hr, hc, hv, ?_, ?_⟩
  · exact hc.trans (carryAdd_eq_decide h1 h2 hr)
  · simpa using hv.trans (overflowAdd_eq_decide h1 h2 hr)

/-- Settles O45: the sum with the carry flag carried in. -/
theorem addWithCarryGivesTheSum : Obligations.AddWithCarryGivesTheSum :=
  binaryRule_of_op (wb := .writes) (op := adcOp) (fun _ _ _ _ => rfl) (fun _ _ _ _ => rfl) fun _ _ _ _ h1 h2 =>
    answersRule_addOut h1 h2 fun _ _ hr hc hv =>
      ⟨hr, hc.trans (carryAdd_eq_decide h1 h2 hr), hv.trans (overflowAdd_eq_decide h1 h2 hr)⟩

/-- Settles O46: CMP computes what SUB does, the difference with no borrow in, and writes no register. -/
theorem subtractAndCompareGiveTheDifference : Obligations.SubtractAndCompareGiveTheDifference := by
  have hop : ∀ (s : State) (w : Width) (v1 v2 : Word), v1.toNat < 2 ^ w.bits → v2.toNat < 2 ^ w.bits →
      AnswersRule s w v1 v2 (subOut w false v1 v2) [.c, .v] fun _ w v1 v2 r flag =>
        (r.toNat : Int) = ((v1.toNat : Int) - v2.toNat) % 2 ^ w.bits ∧
        flag .c = carrySub (topBit w v1) (topBit w v2) (topBit w r) ∧
        flag .v = decide (signedOf w r ≠ signedOf w v1 - signedOf w v2) :=
    fun _ _ _ _ h1 h2 => answersRule_subOut h1 h2 fun _ _ hr hc hv => ⟨by simpa using hr, hc, by simpa using hv⟩
  simp only [Obligations.SubtractAndCompareGiveTheDifference, List.forall_mem_cons]
  refine ⟨?_, ?_, nofun⟩
  · exact binaryRule_of_op (wb := .writes) (op := subOp) (fun _ _ _ _ => rfl) (fun _ _ _ _ => rfl) hop
  · exact binaryRule_of_op (wb := .suppressed) (op := cmpOp) (fun _ _ _ _ => rfl) (fun _ _ _ _ => rfl) hop

/-- Settles O47: the difference with the carry flag borrowed. -/
theorem subtractWithCarryGivesTheDifference : Obligations.SubtractWithCarryGivesTheDifference :=
  binaryRule_of_op (wb := .writes) (op := sbcOp) (fun _ _ _ _ => rfl) (fun _ _ _ _ => rfl) fun _ _ _ _ h1 h2 =>
    answersRule_subOut h1 h2 fun _ _ hr hc hv => ⟨hr, hc, hv⟩

/-- Settles O48: each operation works bit by bit, and none gives a bit where both operands have none. -/
theorem logicWorksBitByBit : Obligations.LogicWorksBitByBit := by
  simp only [Obligations.LogicWorksBitByBit, List.forall_mem_cons]
  refine ⟨?_, ?_, ?_, nofun⟩
  · exact binaryRule_of_op (wb := .writes) (op := andOp) (fun _ _ _ _ => rfl) (fun _ _ _ _ => rfl)
      fun _ _ v1 v2 h1 _ => answersRule_plainOut (BitVec.toNat_and v1 v2 ▸ Nat.and_le_left.trans_lt h1)
        fun _ _ _ => BitVec.getLsbD_and
  · exact binaryRule_of_op (wb := .writes) (op := orOp) (fun _ _ _ _ => rfl) (fun _ _ _ _ => rfl)
      fun _ _ v1 v2 h1 h2 => answersRule_plainOut (BitVec.toNat_or v1 v2 ▸ Nat.or_lt_two_pow h1 h2)
        fun _ _ _ => BitVec.getLsbD_or
  · exact binaryRule_of_op (wb := .writes) (op := xorOp) (fun _ _ _ _ => rfl) (fun _ _ _ _ => rfl)
      fun _ _ v1 v2 h1 h2 => answersRule_plainOut (BitVec.toNat_xor v1 v2 ▸ Nat.xor_lt_two_pow h1 h2)
        fun _ _ _ => BitVec.getLsbD_xor

theorem minWord_toNat (v1 v2 : Word) : (minWord v1 v2).toNat = min v1.toNat v2.toNat := by
  rw [minWord, apply_ite BitVec.toNat, Nat.min_def]

theorem maxWord_toNat (v1 v2 : Word) : (maxWord v1 v2).toNat = max v1.toNat v2.toNat := by
  rw [maxWord, apply_ite BitVec.toNat, Nat.max_comm, Nat.max_def]

/-- Settles O49: the comparison is of the unsigned numbers. -/
theorem minAndMaxAreUnsigned : Obligations.MinAndMaxAreUnsigned := by
  constructor
  · exact binaryRule_of_op (wb := .writes) (op := minOp) (fun _ _ _ _ => rfl) (fun _ _ _ _ => rfl)
      fun _ _ v1 v2 h1 _ => answersRule_plainOut (minWord_toNat v1 v2 ▸ min_lt_of_left_lt h1)
        fun _ => minWord_toNat v1 v2
  · exact binaryRule_of_op (wb := .writes) (op := maxOp) (fun _ _ _ _ => rfl) (fun _ _ _ _ => rfl)
      fun _ _ v1 v2 h1 h2 => answersRule_plainOut (maxWord_toNat v1 v2 ▸ max_lt h1 h2)
        fun _ => maxWord_toNat v1 v2

end Sys2Proof.Machine
end

section
/-! PROOFS. Binary operations on magnitudes: MUL, DIV, MOD and POW (43_alu_binary.md R221, R234 to R237). -/

namespace Sys2Proof.Machine

open Sys2Proof.Claims

/-! ### Numbers from a sign and a magnitude -/

/-- The number of a sign and a magnitude. -/
def withSign (negative : Bool) (n : Int) : Int := if negative then -n else n

theorem natAbs_withSign (a : Bool) (n : Nat) : (withSign a n).natAbs = n := by cases a <;> simp [withSign]

theorem withSign_mul (a b : Bool) (m n : Int) : withSign a m * withSign b n = withSign (a != b) (m * n) := by
  cases a <;> cases b <;> simp [withSign]

theorem withSign_tdiv (a b : Bool) (m n : Int) : (withSign a m).tdiv (withSign b n) = withSign (a != b) (m.tdiv n) := by
  cases a <;> cases b <;> simp [withSign]

theorem withSign_tmod (a b : Bool) (m n : Int) : (withSign a m).tmod (withSign b n) = withSign a (m.tmod n) := by
  cases a <;> cases b <;> simp [withSign]

/-- A power is negative where the base is and the exponent is odd. -/
theorem withSign_pow (a : Bool) (m : Int) (e : Nat) : withSign a m ^ e = withSign (a && e.testBit 0) (m ^ e) := by
  cases a with
  | false => rfl
  | true =>
    obtain he | he := e.even_or_odd
    · simp [withSign, he.neg_pow, Nat.even_iff.mp he]
    · simp [withSign, he.neg_pow, Nat.odd_iff.mp he]

section

variable {w : Width} {v : Word}

/-! ### Magnitudes of values of a width (R221) -/

/-- The signed reading is the magnitude with the top bit for its sign. -/
theorem signedOf_eq_withSign (h : v.toNat < 2 ^ w.bits) :
    signedOf w v = withSign (topBit w v) (absAt w v).toNat := by
  rw [absAt, sign_eq_topBit h, topBit, signedOf]
  by_cases htop : 2 ^ (w.bits - 1) ≤ v.toNat
  · simp only [htop, Nat.not_lt.mpr htop, decide_true, if_true, if_false, withSign, Width.toNat_and_mask,
      BitVec.toNat_neg]
    cases w <;> simp only [Width.bits] at * <;> omega
  · simp [withSign, htop, Nat.not_le.mp htop]

theorem natAbs_signedOf (h : v.toNat < 2 ^ w.bits) : (signedOf w v).natAbs = (absAt w v).toNat := by
  rw [signedOf_eq_withSign h, natAbs_withSign]

theorem absAt_lt (h : v.toNat < 2 ^ w.bits) : (absAt w v).toNat < 2 ^ w.bits := by
  rw [absAt]
  split
  · exact immAt_lt w (-v)
  · exact h

/-! ### The sign restored (R234, R235) -/

theorem restoreSign_lt (negative : Bool) (h : v.toNat < 2 ^ w.bits) :
    (restoreSign w negative v).toNat < 2 ^ w.bits := by
  rw [restoreSign]
  split
  · exact immAt_lt w (-v)
  · exact h

/-- A magnitude known modulo 2^W gives, with its sign restored, the signed number modulo 2^W. -/
theorem restoreSign_toNat (negative : Bool) {n : Int} (h : (v.toNat : Int) = n % 2 ^ w.bits) :
    ((restoreSign w negative v).toNat : Int) = withSign negative n % 2 ^ w.bits := by
  cases negative with
  | false => exact h
  | true =>
    have hneg : (((-v) &&& w.mask).toNat : Int) = -n % 2 ^ w.bits := by
      rw [Width.toNat_and_mask, BitVec.toNat_neg]
      cases w <;> simp only [Width.bits] at * <;> omega
    exact hneg

theorem natCast_eq_emod (h : v.toNat < 2 ^ w.bits) : (v.toNat : Int) = (v.toNat : Int) % 2 ^ w.bits :=
  (Int.emod_eq_of_lt (Int.natCast_nonneg _) (by exact_mod_cast h)).symm

end

/-! ### MUL (R234) -/

theorem maskedNumber_toNat (w : Width) (n : Nat) : (BitVec.ofNat 32 n &&& w.mask).toNat = n % 2 ^ w.bits := by
  rw [Width.toNat_and_mask, BitVec.toNat_ofNat, Nat.mod_mod_of_dvd _ (Nat.pow_dvd_pow 2 w.bits_le)]

/-- A product cut off at `m`, divided back by a factor, gives the other factor exactly where nothing was cut off. -/
theorem mul_mod_div_eq_iff {a b m : Nat} (ha : 0 < a) (hm : 0 < m) : a * b % m / a = b ↔ a * b < m := by
  constructor
  · intro h
    calc a * b = a * (a * b % m / a) := by rw [h]
      _ ≤ a * b % m := Nat.mul_div_le _ a
      _ < m := Nat.mod_lt _ hm
  · intro h
    rw [Nat.mod_eq_of_lt h, Nat.mul_div_cancel_left b ha]

/-- The division test of R234 says whether the product of the magnitudes exceeds the mask. -/
theorem mulOverflow_eq_decide {w : Width} {a1 a2 p : Word} (hp : p.toNat = a1.toNat * a2.toNat % 2 ^ w.bits) :
    (decide (a1 ≠ 0) && decide (p / a1 ≠ a2)) = decide (2 ^ w.bits ≤ a1.toNat * a2.toNat) := by
  have hm : 0 < 2 ^ w.bits := Nat.two_pow_pos _
  by_cases ha : a1 = 0
  · simp [ha]
  · have hpos : 0 < a1.toNat := Nat.pos_of_ne_zero fun h => ha (BitVec.eq_of_toNat_eq h)
    have hback : p / a1 = a2 ↔ a1.toNat * a2.toNat < 2 ^ w.bits := by
      rw [← BitVec.toNat_inj, BitVec.toNat_udiv, hp, mul_mod_div_eq_iff hpos hm]
    rw [decide_eq_true ha, Bool.true_and, decide_eq_decide, ← Nat.not_lt]
    exact not_congr hback

/-- Settles O50: the product of the magnitudes, truncated, with the product of the signs. -/
theorem multiplyGivesTheSignedProduct : Obligations.MultiplyGivesTheSignedProduct := by
  refine binaryRule_of_op (wb := .writes) (op := mulOp) (fun _ _ _ _ => rfl) (fun _ _ _ _ => rfl)
    fun s w v1 v2 h1 h2 => ?_
  have hp := maskedNumber_toNat w ((absAt w v1).toNat * (absAt w v2).toNat)
  refine answersRule_carryOut (restoreSign_lt _ (immAt_lt w _)) fun flag hc hv _ =>
    ⟨?_, ?_, hv.trans hc.symm⟩
  · rw [signedOf_eq_withSign h1, signedOf_eq_withSign h2, withSign_mul, ← sign_eq_topBit h1, ← sign_eq_topBit h2]
    exact restoreSign_toNat _ (by exact_mod_cast hp)
  · rw [natAbs_signedOf h1, natAbs_signedOf h2]
    exact hc.trans (mulOverflow_eq_decide hp)

/-! ### DIV and MOD (R235, R236) -/

section

variable {w : Width} {v2 : Word} (v1 : Word)

theorem divOut_zero : divOut w v1 0 = zeroDivisorOut w := by
  cases w <;> rfl

theorem modOut_zero (m : ModSign) : modOut m w v1 0 = zeroDivisorOut w := by
  cases w <;> rfl

theorem divOut_of_ne_zero (h : v2.toNat < 2 ^ w.bits) (hz : v2 ≠ 0) :
    divOut w v1 v2 = carryOut (restoreSign w (w.sign v1 != w.sign v2) (absAt w v1 / absAt w v2)) false false :=
  if_neg (mt (absAt_eq_zero h).mp hz)

theorem modOut_of_ne_zero (m : ModSign) (h : v2.toNat < 2 ^ w.bits) (hz : v2 ≠ 0) :
    modOut m w v1 v2
      = carryOut (restoreSign w (decide (m = .dividend) && w.sign v1) (absAt w v1 % absAt w v2)) false false :=
  if_neg (mt (absAt_eq_zero h).mp hz)

end

/-- Settles O51: the quotient of the magnitudes, with the product of the signs. -/
theorem divideTruncatesTowardZero : Obligations.DivideTruncatesTowardZero := by
  refine binaryRule_of_op (wb := .writes) (op := divOp) (fun _ _ _ _ => rfl) (fun _ _ _ _ => rfl)
    fun s w v1 v2 h1 h2 => ?_
  by_cases hz : v2 = 0
  · rw [divOp, hz, divOut_zero]
    exact answersRule_zeroDivisorOut fun _ _ _ _ h => absurd rfl h
  · have hq : (absAt w v1 / absAt w v2).toNat = (absAt w v1).toNat / (absAt w v2).toNat := BitVec.toNat_udiv
    have hqlt : (absAt w v1 / absAt w v2).toNat < 2 ^ w.bits := hq ▸ (Nat.div_le_self _ _).trans_lt (absAt_lt h1)
    rw [divOp, divOut_of_ne_zero v1 h2 hz]
    refine answersRule_carryOut (restoreSign_lt _ hqlt) fun flag hc hv ht _ => ⟨?_, hc, hv, ht⟩
    rw [restoreSign_toNat _ (natCast_eq_emod hqlt), hq, Int.ofNat_tdiv, signedOf_eq_withSign h1,
      signedOf_eq_withSign h2, withSign_tdiv, sign_eq_topBit h1, sign_eq_topBit h2]

/-- Settles O52: the remainder of the magnitudes, with the dividend's sign or none. -/
theorem remainderTakesItsSign : Obligations.RemainderTakesItsSign := by
  refine binaryRule_of_op (wb := .writes) (op := modOp) (fun _ _ _ _ => rfl) (fun _ _ _ _ => rfl)
    fun s w v1 v2 h1 h2 => ?_
  by_cases hz : v2 = 0
  · rw [modOp, hz, modOut_zero]
    exact answersRule_zeroDivisorOut fun _ _ _ _ h => absurd rfl h
  · have hr : (absAt w v1 % absAt w v2).toNat = (absAt w v1).toNat % (absAt w v2).toNat := BitVec.toNat_umod
    have hrlt : (absAt w v1 % absAt w v2).toNat < 2 ^ w.bits := hr ▸ (Nat.mod_le _ _).trans_lt (absAt_lt h1)
    rw [modOp, modOut_of_ne_zero v1 s.modSign h2 hz]
    refine answersRule_carryOut (restoreSign_lt _ hrlt) fun flag hc hv ht _ => ⟨?_, hc, hv, ht⟩
    cases s.modSign with
    | dividend =>
      rw [restoreSign_toNat _ (natCast_eq_emod hrlt), hr, Int.ofNat_tmod]
      simp only [signedOf_eq_withSign h1, signedOf_eq_withSign h2, withSign_tmod, sign_eq_topBit h1, decide_true,
        Bool.true_and]
    | magnitude =>
      simp only [natAbs_signedOf h1, natAbs_signedOf h2]
      exact congrArg Nat.cast hr

/-! ### POW (R237) -/

/-- Squaring over the low bits of an exponent that has no more bits is the power. -/
theorem powLoop_eq_pow {n e : Nat} (b : Word) (h : e < 2 ^ n) : powLoop n b e = b ^ e := by
  induction n generalizing b e with
  | zero =>
    obtain rfl : e = 0 := by omega
    rfl
  | succ n ih =>
    have hhalf : (b * b) ^ (e / 2) = b ^ (2 * (e / 2)) := by rw [pow_mul, sq]
    rw [powLoop, ih (b * b) (by omega), hhalf]
    by_cases hodd : e % 2 = 1
    · rw [if_pos hodd, ← pow_succ']
      congr 1
      omega
    · rw [if_neg hodd, one_mul]
      congr 1
      omega

theorem maskedPower_toNat (w : Width) (b e : Word) :
    (powLoop 32 b e.toNat &&& w.mask).toNat = b.toNat ^ e.toNat % 2 ^ w.bits := by
  rw [powLoop_eq_pow b e.isLt, Width.toNat_and_mask, BitVec.toNat_pow,
    Nat.mod_mod_of_dvd _ (Nat.pow_dvd_pow 2 w.bits_le)]

/-- The overflow test of POW is the exact one (log 17). -/
theorem powOverflows_eq_decide (w : Width) (b e : Word) :
    powOverflows w b e = decide (2 ^ w.bits ≤ b.toNat ^ e.toNat) := by
  have hwide : 1 < 2 ^ w.bits := Nat.one_lt_two_pow w.bits_pos.ne'
  rw [powOverflows]
  split_ifs with hsmall hlong
  · have hone : b.toNat ^ e.toNat ≤ 1 := by simpa using Nat.pow_le_pow_left (Nat.le_of_lt_succ hsmall) e.toNat
    exact (decide_eq_false (by omega)).symm
  · have hexceeds : 2 ^ w.bits ≤ b.toNat ^ e.toNat :=
      calc 2 ^ w.bits ≤ 2 ^ e.toNat := Nat.pow_le_pow_right (by decide) (w.bits_le.trans hlong)
        _ ≤ b.toNat ^ e.toNat := Nat.pow_le_pow_left (Nat.not_lt.mp hsmall) _
    exact (decide_eq_true hexceeds).symm
  · rw [Width.mask_toNat, decide_eq_decide]
    omega

/-- Settles O54: the power of the magnitude, truncated, negative where the base is and the exponent is odd. -/
theorem powerIsExact : Obligations.PowerIsExact := by
  refine binaryRule_of_op (wb := .writes) (op := powOp) (fun _ _ _ _ => rfl) (fun _ _ _ _ => rfl)
    fun s w v1 v2 h1 h2 => ?_
  rw [powOp, powOut, sign_eq_topBit h2]
  by_cases hneg : topBit w v2 = true
  · rw [if_pos hneg]
    refine answersRule_carryOut (Nat.two_pow_pos _) fun flag hc hv _ => ?_
    rw [if_pos hneg]
    exact ⟨rfl, hc, hv⟩
  · have hp := maskedPower_toNat w (absAt w v1) v2
    rw [if_neg hneg]
    refine answersRule_carryOut (restoreSign_lt _ (immAt_lt w _)) fun flag hc hv _ => ?_
    rw [if_neg hneg, natAbs_signedOf h1, signedOf_eq_withSign h1, withSign_pow, ← sign_eq_topBit h1]
    refine ⟨?_, ?_, hv.trans hc.symm⟩
    · exact restoreSign_toNat _ (by exact_mod_cast hp)
    · exact hc.trans (powOverflows_eq_decide w _ v2)

end Sys2Proof.Machine
end

section
/-! PROOFS. Two binary operations one after the other: SUB after ADD (43_alu_binary.md R228, R240), MOD after DIV (R236). -/

namespace Sys2Proof.Machine

open Sys2Proof.Claims

/-! ### Registers known bit by bit -/

/-- A general view reads the registers alone, so the same registers read the same. -/
theorem read_plain_of_regsSame {x y : Arch} (h : RegsSame x y) (w : Width) (i : ViewIdx) :
    y.read .plain w i = x.read .plain w i := by
  unfold Arch.read
  cases viewOf i with
  | low r => simp only [Arch.readView, h r]
  | high r => cases w <;> simp only [Arch.readView, h r]
  | status | outOfRange => rfl

section

variable {x y z : Arch} {w : Width} {i : ViewIdx} {v v' : Word}

/-- Registers written as R24 says are those of the model's view write. -/
theorem regsSame_write_of_regsWritten (h : RegsWritten x y w i v) : RegsSame (x.write .plain w i v) y := fun q =>
  BitVec.eq_of_getLsbD_eq fun k hk => (h q k hk).trans (x.write_regsWritten .plain w v i q k hk).symm

theorem read_of_regsWritten_same (h : RegsWritten x y w i v) (hspot : spot i w ≠ none) :
    y.read .plain w i = v &&& w.mask :=
  (read_plain_of_regsSame (regsSame_write_of_regsWritten h) w i).trans (x.read_write_same .plain v hspot)

theorem read_of_regsWritten_ne {j : ViewIdx} (h : RegsWritten x y w i v) (hne : i ≠ j) :
    y.read .plain w j = x.read .plain w j :=
  (read_plain_of_regsSame (regsSame_write_of_regsWritten h) w j).trans (x.read_write_of_ne v hne)

/-- A view written, then written with what it held before, leaves the registers as they were; so do writes that drop. -/
theorem regsSame_of_written_back (h : RegsWritten x y w i v) (h' : RegsWritten y z w i v')
    (hback : spot i w ≠ none → v' = x.read .plain w i) : RegsSame x z := by
  intro q
  apply BitVec.eq_of_getLsbD_eq
  intro k hk
  rw [h' q k hk, h q k hk]
  cases hspot : spot i w with
  | none => rfl
  | some p =>
    obtain ⟨r, lo⟩ := p
    by_cases hin : r = q ∧ lo ≤ k ∧ k < lo + w.bits
    · obtain ⟨rfl, hlo, hhi⟩ := hin
      have hbit := viewsReadTheirBits x .plain w i (k - lo)
      simp only [hspot] at hbit
      simp only [hback (by simp [hspot]), hbit, hlo, hhi, and_self, if_true, Nat.add_sub_cancel' hlo]
      simp [show k - lo < w.bits by omega]
    · simp only [if_neg hin]

end

/-! ### What an instruction that has run has left behind -/

section

variable {s t : State} {w : Width} {d : ViewIdx} {r : Word} {len : Nat} {named : List Flag} {stores : Bool}
  {rule : ValueRule} {reg : TypeTag → ViewIdx → ViewIdx → Instr} {imm : TypeTag → ViewIdx → Word → Instr}

theorem regsWritten_of_aluNext (h : AluNext s t w d true r len named) : RegsWritten s.arch t.arch w d r := by
  obtain ⟨-, hregs, -⟩ := h
  exact hregs

/-- The view written reads the result, which is of the width. -/
theorem read_of_aluNext_same (h : AluNext s t w d true r len named) (hspot : spot d w ≠ none) :
    t.arch.read .plain w d = r := by
  obtain ⟨hlt, hregs, -⟩ := h
  exact (read_of_regsWritten_same hregs hspot).trans (Width.and_mask_of_lt hlt)

theorem read_of_aluNext_ne {j : ViewIdx} (h : AluNext s t w d true r len named) (hne : d ≠ j) :
    t.arch.read .plain w j = s.arch.read .plain w j :=
  read_of_regsWritten_ne (regsWritten_of_aluNext h) hne

theorem modSign_of_aluNext (h : AluNext s t w d stores r len named) : t.modSign = s.modSign := by
  obtain ⟨-, -, -, -, -, -, -, -, -, -, hmod⟩ := h
  exact hmod

/-- The register form that has answered `t` has answered as its rule says. -/
theorem binaryRule_reg_next (h : BinaryRule reg imm stores named rule) {q : ViewIdx}
    (ht : exec (reg w.tag d q) s = .next t) :
    ∃ r, AluNext s t w d stores r 2 named ∧
      rule s w (s.arch.read .plain w d) (s.arch.read .plain w q) r (readFlag t.arch.sb) := by
  obtain ⟨t', r, ht', hrest⟩ := (h s w d).1 q
  obtain rfl := Host.Outcome.next.inj (ht'.symm.trans ht)
  exact ⟨r, hrest⟩

/-- The immediate form that has answered `t` has answered as its rule says. -/
theorem binaryRule_imm_next (h : BinaryRule reg imm stores named rule) {v : Word} (hv : v.toNat < 2 ^ w.bits)
    (ht : exec (imm w.tag d v) s = .next t) :
    ∃ r, AluNext s t w d stores r (2 + w.bytes) named ∧
      rule s w (s.arch.read .plain w d) v r (readFlag t.arch.sb) := by
  obtain ⟨t', r, ht', hrest⟩ := (h s w d).2 v hv
  obtain rfl := Host.Outcome.next.inj (ht'.symm.trans ht)
  exact ⟨r, hrest⟩

end

/-! ### SUB after ADD (R228) -/

/-- A sum written to a view, then the difference of what the view holds and the operand, restore every register. -/
theorem regsSame_of_sum_difference {s t u : State} {w : Width} {d : ViewIdx} {v r r' : Word} {len len' : Nat}
    {named named' : List Flag} (hadd : AluNext s t w d true r len named) (hsub : AluNext t u w d true r' len' named')
    (hr : r.toNat = ((s.arch.read .plain w d).toNat + v.toNat) % 2 ^ w.bits)
    (hr' : spot d w ≠ none → (r'.toNat : Int) = ((t.arch.read .plain w d).toNat - v.toNat : Int) % 2 ^ w.bits) :
    RegsSame s.arch u.arch := by
  refine regsSame_of_written_back (regsWritten_of_aluNext hadd) (regsWritten_of_aluNext hsub) fun hspot =>
    BitVec.eq_of_toNat_eq ?_
  have hlt := s.arch.read_lt .plain w d
  have hdiff := hr' hspot
  rw [read_of_aluNext_same hadd hspot, hr] at hdiff
  cases w <;> simp only [Width.bits] at * <;> omega

/-- Settles O55: SUB finds the sum in the view and the operand as it was. -/
theorem subtractUndoesAdd : Obligations.SubtractUndoesAdd := by
  intro s t w d q v hv
  have hadds := addGivesTheSum.2
  have hsubs := subtractAndCompareGiveTheDifference (Instr.subReg, Instr.subImm, true) (by simp)
  constructor
  · intro hapart ht
    obtain ⟨r, hadd, hr, -⟩ := binaryRule_reg_next hadds ht
    obtain ⟨u, r', hu, hsub, hr', -⟩ := (hsubs t w d).1 q
    refine ⟨u, hu, regsSame_of_sum_difference hadd hsub hr fun hspot => ?_⟩
    have hne : d ≠ q := fun h => hapart.elim (fun hne => hne (h ▸ rfl)) hspot
    rwa [read_of_aluNext_ne hadd hne] at hr'
  · intro ht
    obtain ⟨r, hadd, hr, -⟩ := binaryRule_imm_next hadds hv ht
    obtain ⟨u, r', hu, hsub, hr', -⟩ := (hsubs t w d).2 v hv
    exact ⟨u, hu, regsSame_of_sum_difference hadd hsub hr fun _ => hr'⟩

/-! ### MOD after DIV (R236) -/

theorem signedOf_modEq (w : Width) (v : Word) : signedOf w v ≡ v.toNat [ZMOD 2 ^ w.bits] := by
  rw [signedOf]
  split
  · exact Int.ModEq.refl _
  · exact Int.sub_emod_right _ _

/-- A signed quotient and its remainder, each modulo 2^W, rebuild the dividend modulo 2^W. -/
theorem rebuild_of_tdiv_tmod {w : Width} {v1 v2 r1 r2 : Word} (h1 : v1.toNat < 2 ^ w.bits)
    (hr1 : (r1.toNat : Int) = (signedOf w v1).tdiv (signedOf w v2) % 2 ^ w.bits)
    (hr2 : (r2.toNat : Int) = (signedOf w v1).tmod (signedOf w v2) % 2 ^ w.bits) :
    v1.toNat = (r1.toNat * v2.toNat + r2.toNat) % 2 ^ w.bits := by
  have hmod : (r1.toNat * v2.toNat + r2.toNat : Int) ≡ v1.toNat [ZMOD 2 ^ w.bits] :=
    calc (r1.toNat * v2.toNat + r2.toNat : Int)
      _ ≡ (signedOf w v1).tdiv (signedOf w v2) * signedOf w v2 + (signedOf w v1).tmod (signedOf w v2)
          [ZMOD 2 ^ w.bits] := by
        rw [hr1, hr2]
        exact ((Int.mod_modEq _ _).mul (signedOf_modEq w v2).symm).add (Int.mod_modEq _ _)
      _ = signedOf w v1 := Int.tdiv_mul_add_tmod _ _
      _ ≡ v1.toNat [ZMOD 2 ^ w.bits] := signedOf_modEq w v1
  have hnat : r1.toNat * v2.toNat + r2.toNat ≡ v1.toNat [MOD 2 ^ w.bits] :=
    Int.natCast_modEq_iff.mp (by exact_mod_cast hmod)
  exact (Eq.trans hnat (Nat.mod_eq_of_lt h1)).symm

/-- Settles O56: DIV and MOD read the same dividend and divisor, and each keeps the other's view. -/
theorem quotientAndRemainderRebuildTheDividend : Obligations.QuotientAndRemainderRebuildTheDividend := by
  intro s t u w d e q hmod hd he hde hdq heq hsame hq ht hu
  have hne : d ≠ e := fun h => hde (h ▸ rfl)
  have hnq : d ≠ q := fun h => hdq (h ▸ rfl)
  obtain ⟨r1, hdiv, hr1⟩ := binaryRule_reg_next divideTruncatesTowardZero ht
  obtain ⟨r2, hrem, hr2⟩ := binaryRule_reg_next remainderTakesItsSign hu
  obtain ⟨hquot, -⟩ := hr1 hq
  rw [read_of_aluNext_ne hdiv hne, read_of_aluNext_ne hdiv hnq, ← hsame, modSign_of_aluNext hdiv, hmod] at hr2
  obtain ⟨hremainder, -⟩ := hr2 hq
  rw [read_of_aluNext_ne hrem hne.symm, read_of_aluNext_same hdiv hd, read_of_aluNext_same hrem he]
  exact rebuild_of_tdiv_tmod (s.arch.read_lt .plain w d) hquot hremainder

end Sys2Proof.Machine
end

section
/-! PROOFS. Unary arithmetic (44_alu_unary.md R270 to R283): what an operation on values gives its instruction, the
results as numbers, and DEC after INC. -/

namespace Sys2Proof.Machine

open Sys2Proof.Claims

/-! ### From values to instructions (R270) -/

/-- An operation that answers a rule on all values of a width gives it to its instruction: of the two values a rule of
`AnswersRule` speaks of, a unary one sees the first. -/
theorem unaryRule_of_op {instr : TypeTag → ViewIdx → Instr} {wb : WriteBack} {op : UnaryOp} {named : List Flag}
    {rule : Width → Word → Word → (Flag → Bool) → Prop} (hinstr : ∀ t d s, exec (instr t d) s = unary wb op t d s)
    (hop : ∀ (s : State) (w : Width) (v : Word), v.toNat < 2 ^ w.bits →
      AnswersRule s w v v (op w v) named fun _ w v _ => rule w v) :
    UnaryRule instr wb.stores named rule := by
  intro s w d
  obtain ⟨hlt, hnamed, hrule⟩ := hop s w _ (s.arch.read_lt .plain w d)
  exact ⟨_, _, (hinstr _ _ _).trans (unary_tag wb op w d s), aluNext_retireAlu s d wb 2 hlt hnamed, hrule⟩

/-- An operation that writes C besides S and Z. -/
theorem answersRule_shiftOut {s : State} {w : Width} {v1 v2 r : Word} {c : Bool} {rule : ValueRule}
    (hlt : r.toNat < 2 ^ w.bits) (hrule : ∀ flag, flag .c = c → rule s w v1 v2 r flag) :
    AnswersRule s w v1 v2 (shiftOut r c) [.c] rule :=
  ⟨hlt, ⟨fun h => absurd (List.mem_singleton_self _) h, fun _ => rfl, fun _ => rfl⟩,
    hrule _ (readFlag_aluStatus _ _ _ .c)⟩

/-- The unary form that has answered `t` has answered as its rule says. -/
theorem unaryRule_next {instr : TypeTag → ViewIdx → Instr} {stores : Bool} {named : List Flag}
    {rule : Width → Word → Word → (Flag → Bool) → Prop} (h : UnaryRule instr stores named rule) {s t : State}
    {w : Width} {d : ViewIdx} (ht : exec (instr w.tag d) s = .next t) :
    ∃ r, AluNext s t w d stores r 2 named ∧ rule w (s.arch.read .plain w d) r (readFlag t.arch.sb) := by
  obtain ⟨t', r, ht', hrest⟩ := h s w d
  obtain rfl := Host.Outcome.next.inj (ht'.symm.trans ht)
  exact ⟨r, hrest⟩

section

variable {w : Width} {v : Word}

/-! ### INC, DEC, NEG and COM as numbers (R272, R273, R275, R276) -/

theorem maskedIncrement_toNat (w : Width) (v : Word) : ((v + 1) &&& w.mask).toNat = (v.toNat + 1) % 2 ^ w.bits := by
  simpa [flagWord] using maskedSum_toNat w false v 1

theorem maskedDecrement_toNat (w : Width) (v : Word) :
    (((v - 1) &&& w.mask).toNat : Int) = ((v.toNat : Int) - 1) % 2 ^ w.bits := by
  simpa [flagWord] using maskedDifference_toNat w false v 1

/-- One less modulo 2^W, with the wrap added in advance or not. -/
theorem eq_add_pred_mod_iff (w : Width) (m n : Nat) :
    n = (m + (2 ^ w.bits - 1)) % 2 ^ w.bits ↔ (n : Int) = ((m : Int) - 1) % 2 ^ w.bits := by
  cases w <;> simp only [Width.bits] <;> omega

theorem maskedNegation_toNat (h : v.toNat < 2 ^ w.bits) :
    (((-v) &&& w.mask).toNat : Int) = -(v.toNat : Int) % 2 ^ w.bits :=
  restoreSign_toNat true (natCast_eq_emod h)

theorem maskedComplement_toNat (h : v.toNat < 2 ^ w.bits) :
    ((~~~v) &&& w.mask).toNat + v.toNat = 2 ^ w.bits - 1 := by
  rw [Width.toNat_and_mask, BitVec.toNat_not]
  cases w <;> simp only [Width.bits] at * <;> omega

/-! ### SXT and ZXT as numbers (R278, R279) -/

/-- Sign extension keeps the signed reading modulo the new width. -/
theorem signExtend_toNat {n : Nat} (x : BitVec n) (m : Nat) : ((x.signExtend m).toNat : Int) = x.toInt % 2 ^ m := by
  rw [BitVec.signExtend, BitVec.toNat_ofInt, Int.toNat_of_nonneg (Int.emod_nonneg _ (by positivity))]
  norm_cast

/-- The claims' signed reading of the low bits of a word is theirs as a bit vector. -/
theorem signedOf_and_mask (w : Width) (v : Word) : signedOf w (v &&& w.mask) = (v.extractLsb' 0 w.bits).toInt := by
  rw [signedOf, Width.toNat_and_mask, BitVec.toInt_eq_toNat_cond, BitVec.extractLsb'_toNat, Nat.shiftRight_zero]
  cases w <;> simp only [Width.bits] <;> split_ifs <;> omega

theorem sxtWord_word_toNat (v : Word) : ((sxtWord .word v).toNat : Int) = signedOf .byte (v &&& 0xFF) % 2 ^ 16 := by
  have hwide : (sxtWord .word v).toNat = ((v.extractLsb' 0 8).signExtend 16).toNat :=
    BitVec.toNat_setWidth_of_le (by decide)
  rw [hwide, signExtend_toNat]
  exact congrArg (· % 2 ^ 16) (signedOf_and_mask .byte v).symm

theorem sxtWord_long_toNat (v : Word) : ((sxtWord .long v).toNat : Int) = signedOf .word (v &&& 0xFFFF) % 2 ^ 32 :=
  (signExtend_toNat _ 32).trans (congrArg (· % 2 ^ 32) (signedOf_and_mask .word v).symm)

theorem sxtWord_lt (h : v.toNat < 2 ^ w.bits) : (sxtWord w v).toNat < 2 ^ w.bits := by
  cases w with
  | byte => exact h
  | word => exact (BitVec.toNat_setWidth_of_le (by decide)).trans_lt (BitVec.isLt _)
  | long => exact (sxtWord .long v).isLt

theorem zxtWord_lt (h : v.toNat < 2 ^ w.bits) : (zxtWord w v).toNat < 2 ^ w.bits := by
  cases w with
  | byte => exact h
  | word => exact (BitVec.toNat_and v _ ▸ Nat.and_le_left).trans_lt h
  | long => exact (zxtWord .long v).isLt

/-! ### Shifts and rotates by one as numbers (R280 to R283) -/

/-- A bit shifted in from below is a bit added to the double. -/
theorem shiftLeft_or_flagWord (v : Word) (c : Bool) : v <<< 1 ||| flagWord c = v + v + flagWord c := by
  have hdouble : v <<< 1 = v + v := by bv_omega
  have hapart : v <<< 1 &&& flagWord c = 0 := by
    cases c with
    | false => simp [flagWord]
    | true => ext i; simp [flagWord]; omega
  rw [← BitVec.add_eq_or_of_and_eq_zero _ _ hapart, hdouble]

theorem rotatedLeft_toNat (w : Width) (v : Word) (c : Bool) :
    ((v <<< 1 ||| flagWord c) &&& w.mask).toNat = 2 * v.toNat % 2 ^ w.bits + c.toNat := by
  have hc := c.toNat_le
  rw [shiftLeft_or_flagWord, maskedSum_toNat]
  cases w <;> simp only [Width.bits] <;> omega

theorem shiftedLeft_toNat (w : Width) (v : Word) : ((v <<< 1) &&& w.mask).toNat = 2 * v.toNat % 2 ^ w.bits := by
  simpa [flagWord] using rotatedLeft_toNat w v false

theorem shiftedRight_toNat (h : v.toNat < 2 ^ w.bits) : ((v &&& w.mask) >>> 1).toNat = v.toNat / 2 := by
  rw [Width.and_mask_of_lt h, BitVec.toNat_ushiftRight, Nat.shiftRight_one]

/-- The bottom bit of a number. -/
theorem getLsbD_zero_eq_decide (v : Word) : v.getLsbD 0 = decide (v.toNat % 2 = 1) := Nat.testBit_zero v.toNat

/-- The bottom bit moved to the top of the width. -/
theorem bottomBit_atTop_toNat (w : Width) (v : Word) :
    (flagWord (v.getLsbD 0) <<< (w.bits - 1)).toNat = v.toNat % 2 * 2 ^ (w.bits - 1) := by
  rw [getLsbD_zero_eq_decide]
  obtain h | h := Nat.mod_two_eq_zero_or_one v.toNat <;> cases w <;> simp [h, flagWord, Width.bits]

theorem rotatedRight_toNat (h : v.toNat < 2 ^ w.bits) :
    ((v &&& w.mask) >>> 1 ||| flagWord (v.getLsbD 0) <<< (w.bits - 1)).toNat
      = v.toNat / 2 + v.toNat % 2 * 2 ^ (w.bits - 1) := by
  have hhalf : v.toNat / 2 < 2 ^ (w.bits - 1) := by cases w <;> simp only [Width.bits] at * <;> omega
  rw [BitVec.toNat_or, shiftedRight_toNat h, bottomBit_atTop_toNat, Nat.or_comm, ← Nat.shiftLeft_eq,
    ← Nat.shiftLeft_add_eq_or_of_lt hhalf, Nat.add_comm]

end

/-! ### The instructions -/

/-- Settles O57: TST computes what COM does and writes no register. -/
theorem incDecNegComTstResults : Obligations.IncDecNegComTstResults := by
  have hcom : ∀ (s : State) (w : Width) (v : Word), v.toNat < 2 ^ w.bits →
      AnswersRule s w v v (comOp w v) [] fun _ w v _ r _ => r.toNat + v.toNat = 2 ^ w.bits - 1 :=
    fun _ w _ hv => answersRule_plainOut (immAt_lt w _) fun _ => maskedComplement_toNat hv
  refine ⟨?_, ?_, ?_, ?_, ?_⟩
  · exact unaryRule_of_op (wb := .writes) (op := incOp) (fun _ _ _ => rfl) fun _ w v _ =>
      answersRule_plainOut (immAt_lt w _) fun _ => maskedIncrement_toNat w v
  · exact unaryRule_of_op (wb := .writes) (op := decOp) (fun _ _ _ => rfl) fun _ w v _ =>
      answersRule_plainOut (immAt_lt w _) fun _ => (eq_add_pred_mod_iff w _ _).mpr (maskedDecrement_toNat w v)
  · exact unaryRule_of_op (wb := .writes) (op := negOp) (fun _ _ _ => rfl) fun _ w _ hv =>
      answersRule_plainOut (immAt_lt w _) fun _ => maskedNegation_toNat hv
  · exact unaryRule_of_op (wb := .writes) (op := comOp) (fun _ _ _ => rfl) hcom
  · exact unaryRule_of_op (wb := .suppressed) (op := tstOp) (fun _ _ _ => rfl) hcom

/-- Settles O58: each extension is from the next smaller width, of which a byte has none. -/
theorem absSxtZxtResults : Obligations.AbsSxtZxtResults := by
  refine ⟨?_, ?_, ?_⟩
  · exact unaryRule_of_op (wb := .writes) (op := absOp) (fun _ _ _ => rfl) fun _ _ _ hv =>
      answersRule_plainOut (absAt_lt hv) fun _ => (natAbs_signedOf hv).symm
  · refine unaryRule_of_op (wb := .writes) (op := sxtOp) (fun _ _ _ => rfl) fun _ w v hv =>
      answersRule_plainOut (sxtWord_lt hv) fun _ => ?_
    cases w with
    | byte => rfl
    | word => exact sxtWord_word_toNat v
    | long => exact sxtWord_long_toNat v
  · refine unaryRule_of_op (wb := .writes) (op := zxtOp) (fun _ _ _ => rfl) fun _ w v hv =>
      answersRule_plainOut (zxtWord_lt hv) fun _ => ?_
    cases w with
    | byte => rfl
    | word => exact Width.toNat_and_mask .byte v
    | long => exact Width.toNat_and_mask .word v

/-- Settles O59: the bit that leaves at one end goes to C, and for a rotate to the other end. -/
theorem shiftAndRotateResults : Obligations.ShiftAndRotateResults := by
  refine ⟨?_, ?_, ?_, ?_⟩
  · exact unaryRule_of_op (wb := .writes) (op := shlOp) (fun _ _ _ => rfl) fun _ w v hv =>
      answersRule_shiftOut (immAt_lt w _) fun _ hc => ⟨shiftedLeft_toNat w v, hc.trans (sign_eq_topBit hv)⟩
  · exact unaryRule_of_op (wb := .writes) (op := shrOp) (fun _ _ _ => rfl) fun _ _ v hv =>
      answersRule_shiftOut (shiftedRight_toNat hv ▸ (Nat.div_le_self _ 2).trans_lt hv) fun _ hc =>
        ⟨shiftedRight_toNat hv, hc⟩
  · refine unaryRule_of_op (wb := .writes) (op := rolOp) (fun _ _ _ => rfl) fun _ w v hv => ?_
    rw [rolOp, sign_eq_topBit hv]
    exact answersRule_shiftOut (immAt_lt w _) fun _ hc => ⟨rotatedLeft_toNat w v _, hc⟩
  · refine unaryRule_of_op (wb := .writes) (op := rorOp) (fun _ _ _ => rfl) fun _ w v hv => ?_
    have hror := rotatedRight_toNat hv
    have hlt : v.toNat / 2 + v.toNat % 2 * 2 ^ (w.bits - 1) < 2 ^ w.bits := by
      cases w <;> simp only [Width.bits] at * <;> omega
    exact answersRule_shiftOut (hror ▸ hlt) fun _ hc => ⟨hror, hc.trans (getLsbD_zero_eq_decide v)⟩

/-- Settles O60: INC adds 1 to the view and DEC takes 1 from what the view then holds. -/
theorem decUndoesInc : Obligations.DecUndoesInc := by
  intro s t w d ht
  obtain ⟨hincs, hdecs, -⟩ := incDecNegComTstResults
  obtain ⟨r, hinc, hr⟩ := unaryRule_next hincs ht
  obtain ⟨u, r', hu, hdec, hr'⟩ := hdecs t w d
  exact ⟨u, hu, regsSame_of_sum_difference (v := 1) hinc hdec hr fun _ => (eq_add_pred_mod_iff w _ _).mp hr'⟩

end Sys2Proof.Machine
end

section
/-! PROOFS. Division by zero: what DIV and MOD answer, and which instructions keep T (60_exceptions.md R301). -/

namespace Sys2Proof.Machine

open Sys2Proof.Claims

/-! ### A zero divisor (R301) -/

/-- What R301 says of a second operand that is 0: all ones, with T, C and V set, S = 1 and Z = 0. -/
def ZeroDivisorRule : ValueRule := fun _ w _ v2 r flag =>
  v2 = 0 →
    r.toNat = 2 ^ w.bits - 1 ∧ flag .t = true ∧ flag .c = true ∧ flag .v = true ∧ flag .s = true ∧ flag .z = false

/-- All ones is negative and not 0 at every width. -/
theorem readFlag_aluStatus_zeroDivisorOut (w : Width) (sb : Byte) (g : Flag) (hg : g ∈ [Flag.t, .c, .v, .s, .z]) :
    readFlag (aluStatus w (zeroDivisorOut w) sb) g = decide (g ≠ .z) := by
  rw [readFlag_aluStatus]
  cases g with
  | t | c | v => rfl
  | s | z => cases w <;> rfl
  | h | f | i => simp at hg

theorem answersRule_zeroDivisorRule_zero (s : State) (w : Width) (v1 v2 : Word) :
    AnswersRule s w v1 v2 (zeroDivisorOut w) [.c, .v, .t] ZeroDivisorRule := by
  obtain ⟨hlt, hnamed, -⟩ := answersRule_zeroDivisorOut (s := s) (w := w) (v1 := v1) (v2 := v2)
    (named := [.c, .v, .t]) (rule := fun _ _ _ _ _ _ => True) fun _ _ _ _ => trivial
  have hflag := readFlag_aluStatus_zeroDivisorOut w s.arch.sb
  exact ⟨hlt, hnamed, fun _ => ⟨Width.mask_toNat w, hflag .t (by simp), hflag .c (by simp), hflag .v (by simp),
    hflag .s (by simp), hflag .z (by simp)⟩⟩

/-- An operation that singles out a zero divisor, and clears C and V for every other, answers R301 in both its forms. -/
theorem binaryRule_zeroDivisorRule {reg : TypeTag → ViewIdx → ViewIdx → Instr} {imm : TypeTag → ViewIdx → Word → Instr}
    {op : BinaryOp} (hreg : ∀ t d q s, exec (reg t d q) s = binaryReg .writes op t d q s)
    (himm : ∀ t d v s, exec (imm t d v) s = binaryImm .writes op t d v s)
    (hzero : ∀ s w v1, op s w v1 0 = zeroDivisorOut w)
    (hother : ∀ s w v1 v2, v1.toNat < 2 ^ w.bits → v2.toNat < 2 ^ w.bits → v2 ≠ 0 →
      ∃ r, r.toNat < 2 ^ w.bits ∧ op s w v1 v2 = carryOut r false false) :
    BinaryRule reg imm true [.c, .v, .t] ZeroDivisorRule := by
  refine binaryRule_of_op (wb := .writes) hreg himm fun s w v1 v2 h1 h2 => ?_
  by_cases hz : v2 = 0
  · rw [hz, hzero]
    exact answersRule_zeroDivisorRule_zero s w v1 0
  · obtain ⟨r, hlt, hop⟩ := hother s w v1 v2 h1 h2 hz
    rw [hop]
    exact answersRule_carryOut hlt fun _ _ _ _ h => absurd h hz

theorem binaryRule_div_zeroDivisorRule : BinaryRule .divReg .divImm true [.c, .v, .t] ZeroDivisorRule :=
  binaryRule_zeroDivisorRule (op := divOp) (fun _ _ _ _ => rfl) (fun _ _ _ _ => rfl) (fun _ _ v1 => divOut_zero v1)
    fun _ _ v1 _ h1 h2 hz => ⟨_, restoreSign_lt _ (BitVec.toNat_udiv ▸ (Nat.div_le_self _ _).trans_lt (absAt_lt h1)),
      divOut_of_ne_zero v1 h2 hz⟩

theorem binaryRule_mod_zeroDivisorRule : BinaryRule .modReg .modImm true [.c, .v, .t] ZeroDivisorRule :=
  binaryRule_zeroDivisorRule (op := modOp) (fun _ _ _ _ => rfl) (fun _ _ _ _ => rfl)
    (fun s _ v1 => modOut_zero v1 s.modSign)
    fun s _ v1 _ h1 h2 hz => ⟨_, restoreSign_lt _ (BitVec.toNat_umod ▸ (Nat.mod_le _ _).trans_lt (absAt_lt h1)),
      modOut_of_ne_zero v1 s.modSign h2 hz⟩

/-! ### A set T stays set -/

/-- ORS alone writes the whole status byte and yet cannot clear T (10_state.md R31, R301). -/
theorem mayClearTrap_eq_writesWholeStatus_or_ors (i : Instr) :
    mayClearTrap i = writesWholeStatus i ∨ (∃ d, i = .orsReg d) ∨ ∃ v, i = .orsImm v := by
  cases i with
  | orsReg d => exact .inr (.inl ⟨d, rfl⟩)
  | orsImm v => exact .inr (.inr ⟨v, rfl⟩)
  | _ => exact .inl rfl

/-- A status byte with more bits set keeps every flag that was set. -/
theorem readFlag_of_statusLogic_or {s t : State} {v : Byte} {g : Flag} (h : statusLogic s (s.arch.sb ||| v) = .next t)
    (hg : readFlag s.arch.sb g = true) : readFlag t.arch.sb g = true := by
  rw [statusLogic_eq] at h
  cases h
  exact BitVec.getLsbD_or.trans (Bool.or_eq_true_iff.mpr (.inl hg))

/-- But for the instructions R301 lets clear it, every instruction keeps a set T. -/
theorem exec_keeps_trap {i : Instr} {s t : State} (hclear : mayClearTrap i = false)
    (htrap : readFlag s.arch.sb .t = true) (h : exec i s = .next t) : readFlag t.arch.sb .t = true := by
  obtain hwhole | ⟨d, rfl⟩ | ⟨v, rfl⟩ := mayClearTrap_eq_writesWholeStatus_or_ors i
  · obtain ⟨-, -, -, ht⟩ := onlyDivisionByZeroSetsTrap i s t h (hwhole ▸ hclear)
    rw [ht, htrap, Bool.true_or]
  · exact readFlag_of_statusLogic_or (v := s.arch.statusOperand d) h htrap
  · exact readFlag_of_statusLogic_or (v := v) h htrap

/-- Settles O53: DIV and MOD single out a zero divisor, and of the instructions that write the whole status byte ORS keeps a
set T. -/
theorem zeroDivisorSetsTrap : Obligations.ZeroDivisorSetsTrap := by
  constructor
  · simp only [List.forall_mem_cons]
    exact ⟨binaryRule_div_zeroDivisorRule, binaryRule_mod_zeroDivisorRule, nofun⟩
  · exact fun _ _ _ => exec_keeps_trap

end Sys2Proof.Machine
end
